-- ==== Sys2Proof/Word.lean ====
section
/-! DEFINITION. The widths of spec/00_scope.md R5 and R6: registers are 8 bits, the divisor and the counts
16 bits, the command word and a result's value 32 bits. Bit 0 is the least significant bit; every value is
unsigned. -/

namespace Sys2Proof

/-- A register, a data byte (R6: "All register values are unsigned 8-bit"). -/
abbrev Byte := BitVec 8

/-- The divisor, and the counts `LEN`, `i` and `cnt` (R5, D37). -/
abbrev Half := BitVec 16

/-- A command word, and the `value` of a result (R40, R45). -/
abbrev Word := BitVec 32

end Sys2Proof
end

