-- ==== Sys2Proof/Config.lean ====
section
/-! DEFINITION. What an implementation fixes and what the spec leaves open: the parameters of spec/00_scope.md
R5, the moves the four agents and the platform can make (R2, R97, R99, R113), and the free values. A free value is a
constant with no body: nothing can be proved of it, so a claim holds for every value of it (R10, "A model must
keep every claim true for every draw"). -/

namespace Sys2Proof

/-- The implementation parameters of R5. They are held in the machine's state and no step changes them, so
every statement is for every choice (log 7). -/
structure Params where
  /-- `BASE`, the byte address of offset 0 (OPEN, D3). The spec gives no address width: an unbounded number, DESIGN
  CHOICE (log 19). -/
  base : Nat
  /-- `REG_STRIDE`, bytes between consecutive register offsets: 1, 2, 4 or 8. -/
  stride : Nat
  /-- `RX_DEPTH`, receive storage capacity, at least 1. -/
  rxDepth : Nat
  /-- `TX_DEPTH`, transmit holding storage capacity, at least 1. -/
  txDepth : Nat
  /-- `GETDIV_RESTORE`: whether GETDIV writes the saved LCR back (D9, conflict C3). -/
  getdivRestore : Bool
  /-- `LSR_RD_CLEARS`: whether an LSR read clears OE, PE, FE, BI and B7 (D12). -/
  lsrRdClears : Bool
  deriving DecidableEq, Repr

/-- The defaults of R5. `BASE` has none (OPEN): 0 here, DESIGN CHOICE, unsafe (log 7). -/
def Params.default : Params :=
  { base := 0, stride := 1, rxDepth := 1, txDepth := 1, getdivRestore := true, lsrRdClears := true }

/-- A step of LINE (spec/45_line_side.md R93 to R96). The byte delivered and the set of flags are the step's
own arguments, as the spec writes them. -/
inductive LineStep where
  /-- R93: a byte arrives. -/
  | rxDeliver (b : Byte)
  /-- R94: the next held byte moves to the shift register. -/
  | txLoad
  /-- R95: the shift register's byte has left. -/
  | txDone
  /-- R96: the flags of a set rise; the set is given by its four membership bits. -/
  | lineError (pe fe bi b7 : Bool)
  deriving DecidableEq, Repr, Inhabited

/-- A command as HOST presents it: the word and the payload bytes, byte 0 first (R40). -/
structure Command where
  word    : Word
  payload : List Byte
  deriving DecidableEq, Repr, Inhabited

/-- One move of one agent. Moves are taken one at a time (R103). -/
inductive Move where
  /-- SEQ: accept the presented command, or one step of the micro-program. -/
  | seq
  /-- LINE takes a step. -/
  | line (l : LineStep)
  /-- HOST presents a command (R99). -/
  | host (c : Command)
  /-- The platform asserts reset (R113). -/
  | reset
  deriving DecidableEq, Repr, Inhabited

/-- An access as REGS meets it on the bus (R8, R26): byte address, width in bytes, direction and write data.
SEQ's own accesses are all one byte at a slot; this type serves a master outside the block (R61, R26; log 8). An
address is an unbounded number, so none wraps: DESIGN CHOICE (log 19). -/
structure BusAccess where
  addr  : Nat
  width : Nat
  /-- `WE`: true for a write. -/
  we    : Bool
  /-- `WD`, the low byte of the write data. -/
  wd    : Byte
  deriving DecidableEq, Repr, Inhabited

/-- `draw()`: the free value of every point the spec leaves at "any value" (spec/93 U1, U2, U4 to U7), applied to
the count of draws so far (log 2). -/
opaque Config.draw : Nat → Byte

/-- Whether an overrun keeps the older byte (R93, D31, U10): a free value at the count of draws (log 3). -/
opaque Config.overrunKeeps : Nat → Bool

/-- Who moves when the state's agenda names nobody (R97, "Every schedule"; U12): a free value at the count of
moves (log 1). -/
opaque Config.move : Nat → Move

end Sys2Proof
end

