-- ==== Sys2Proof/Syntax.lean ====
section
/-! DEFINITION. The instructions: one constructor per row of spec/opcode_table.json, twenty commands of the
sequencer (spec/30_encoding.md R41 to R43) and twelve operations of the register bus (R38, R39). Operands are
the fields of R41 and R42, at their widths. -/

namespace Sys2Proof

/-- What the block decodes. A command's operands are its word's fields; a bus write's operand is the byte `WD`
it carries (R38). WRITE's payload travels beside the word (R40) and is no operand. -/
inductive Instr where
  /-- R69: read the divisor. -/
  | getdiv
  /-- R70: write the divisor `DIV`. -/
  | setdiv (div : Half)
  /-- R72: read the parity mode. -/
  | getpar
  /-- R73: write the parity mode `PAR`. -/
  | setpar (par : BitVec 3)
  /-- R74: read the stop-bit selector. -/
  | getstop
  /-- R75: write the stop-bit selector `STB`. -/
  | setstop (stb : BitVec 1)
  /-- R76: read the word length. -/
  | getwlen
  /-- R77: write the word-length code `WLN`. -/
  | setwlen (wln : BitVec 2)
  /-- R78: apply a whole configuration, with the divisor when `HASDIV` is 1. -/
  | init (hasdiv : BitVec 1) (par : BitVec 3) (stb : BitVec 1) (wln : BitVec 2) (div : Half)
  /-- R79: read the whole configuration back. -/
  | getcfg
  /-- R82: receive up to `LEN` bytes without waiting. -/
  | read (len : Half)
  /-- R83: send up to `LEN` bytes without waiting. -/
  | write (len : Half)
  /-- R84: wait until the transmitter has drained. -/
  | flush
  /-- R87: read one byte or report would-block. -/
  | rdnb
  /-- R88: write `BYTE` or report would-block. -/
  | wrnb (byte : Byte)
  /-- R89: check once whether the transmitter has drained. -/
  | flnb
  /-- R85: read-readiness query. -/
  | rdrdy
  /-- R86: write-readiness query. -/
  | wrrdy
  /-- R80: read the register at `OFF` directly. -/
  | regrd (off : BitVec 3)
  /-- R81: write `VAL` to the register at `OFF` directly. -/
  | regwr (off : BitVec 3) (val : Byte)
  /-- R50: read the receive buffer. -/
  | rbrRd
  /-- R51: write the transmit holding register. -/
  | thrWr (wd : Byte)
  /-- R52: read the divisor latch low byte. -/
  | dllRd
  /-- R53: write the divisor latch low byte. -/
  | dllWr (wd : Byte)
  /-- R54: read the interrupt-enable register. -/
  | ierRd
  /-- R55: write the interrupt-enable register. -/
  | ierWr (wd : Byte)
  /-- R56: read the divisor latch high byte. -/
  | dlmRd
  /-- R57: write the divisor latch high byte. -/
  | dlmWr (wd : Byte)
  /-- R58: read the line control register. -/
  | lcrRd
  /-- R59: write the line control register. -/
  | lcrWr (wd : Byte)
  /-- R60: read the line status register. -/
  | lsrRd
  /-- R61: write the (read-only) line status register. -/
  | lsrWr (wd : Byte)
  deriving DecidableEq, Repr

end Sys2Proof
end

