-- ==== Sys2Proof/WellFormed.lean ====
section
/-! DEFINITION. Which operands an instruction may carry: the operand conditions of spec/30_encoding.md R44
(c), (d) and (e), and the payload condition of R44 (f) and spec/60_exceptions.md R99. -/

namespace Sys2Proof

/-- A parity-mode code is 0 to 4; codes 5, 6 and 7 are reserved (R42, R44 c). -/
def parityLegal (par : BitVec 3) : Bool := par.ule 4#3

/-- The offsets REGRD accepts (R44 d): A, B, LCR, LSR. -/
def regrdOffsetLegal (off : BitVec 3) : Bool := off == 0#3 || off == 1#3 || off == 3#3 || off == 5#3

/-- The offsets REGWR accepts (R44 e): A, B, LCR. LSR is read-only. -/
def regwrOffsetLegal (off : BitVec 3) : Bool := off == 0#3 || off == 1#3 || off == 3#3

/-- The instruction's operands are legal. Every operand not restricted by R44 may take any value. -/
def Instr.wellFormed : Instr → Bool
  | .setpar par => parityLegal par
  | .init _ par _ _ _ => parityLegal par
  | .regrd off => regrdOffsetLegal off
  | .regwr off _ => regwrOffsetLegal off
  | .getdiv | .setdiv _ | .getpar | .getstop | .setstop _ | .getwlen | .setwlen _ | .getcfg | .read _
  | .write _ | .flush | .rdnb | .wrnb _ | .flnb | .rdrdy | .wrrdy => true
  | .rbrRd | .thrWr _ | .dllRd | .dllWr _ | .ierRd | .ierWr _ | .dlmRd | .dlmWr _ | .lcrRd | .lcrWr _
  | .lsrRd | .lsrWr _ => true

/-- Whether the row is one of the twenty commands (R43), not a bus operation (R39). -/
def Instr.isCommand : Instr → Bool
  | .getdiv | .setdiv _ | .getpar | .setpar _ | .getstop | .setstop _ | .getwlen | .setwlen _
  | .init _ _ _ _ _ | .getcfg | .read _ | .write _ | .flush | .rdnb | .wrnb _ | .flnb | .rdrdy | .wrrdy
  | .regrd _ | .regwr _ _ => true
  | .rbrRd | .thrWr _ | .dllRd | .dllWr _ | .ierRd | .ierWr _ | .dlmRd | .dlmWr _ | .lcrRd | .lcrWr _
  | .lsrRd | .lsrWr _ => false

/-- How many payload bytes the command carries: `LEN` for WRITE, none for every other command (R40). -/
def Instr.payloadLength : Instr → Nat
  | .write len => len.toNat
  | .getdiv | .setdiv _ | .getpar | .setpar _ | .getstop | .setstop _ | .getwlen | .setwlen _
  | .init _ _ _ _ _ | .getcfg | .read _ | .flush | .rdnb | .wrnb _ | .flnb | .rdrdy | .wrrdy
  | .regrd _ | .regwr _ _ => 0
  | .rbrRd | .thrWr _ | .dllRd | .dllWr _ | .ierRd | .ierWr _ | .dlmRd | .dlmWr _ | .lcrRd | .lcrWr _
  | .lsrRd | .lsrWr _ => 0

/-- The payload HOST sends fits the command (R44 f, R99). -/
def payloadFits (i : Instr) (payload : List Byte) : Bool := payload.length == i.payloadLength

end Sys2Proof
end

