-- ==== Sys2Proof/Decode.lean ====
section
/-! DEFINITION. The two decoders of spec/30_encoding.md, each total: the bus decode key (R38, R39) and the command
word (R40 to R44); the address decode in front of the bus key (spec/20_memory.md R23, R26, R27); and the
encoder, written from the same tables. -/

namespace Sys2Proof

/-- Why a word or a key is no instruction. -/
inductive DecodeError where
  /-- R44 (a): `OP` is unassigned. -/
  | unassignedOpcode
  /-- R44 (b): a reserved bit is set. -/
  | reservedBitSet
  /-- R44 (c): SETPAR or INIT with `PAR` 5, 6 or 7. -/
  | reservedParity
  /-- R44 (d), (e): an offset REGRD or REGWR refuses. -/
  | refusedOffset
  /-- R62: no register of this block at the key's offset. -/
  | undecodedOffset
  deriving DecidableEq, Repr

/-- An instruction as it is presented: a command word on the command port (R40), or a decode key with the write
data byte on the register bus (R38). -/
inductive Encoded where
  | command (word : Word)
  | access (key : BitVec 5) (wd : Byte)
  deriving DecidableEq, Repr

/-! ### Offsets and the address decode -/

/-- `OFF_A` (R8, D2): RBR, THR or DLL. -/
def offA : BitVec 3 := 0#3
/-- `OFF_B`: IER or DLM. -/
def offB : BitVec 3 := 1#3
/-- `OFF_LCR`. -/
def offLcr : BitVec 3 := 3#3
/-- `OFF_LSR`. -/
def offLsr : BitVec 3 := 5#3

/-- The byte address of a register offset: `BASE + off * REG_STRIDE` (R8, R23), as an unbounded sum that never wraps:
DESIGN CHOICE (log 19). -/
def slotAddress (p : Params) (off : BitVec 3) : Nat := p.base + off.toNat * p.stride

/-- The register offset an access selects: one byte wide, at the lowest address of one of the eight slots
(R26, R27). `none` for a wider access, a byte between slots, or an address outside the block (R30). -/
def slotOffset (p : Params) (a : BusAccess) : Option (BitVec 3) :=
  if a.width = 1 ∧ p.base ≤ a.addr ∧ (a.addr - p.base) % p.stride = 0 ∧ (a.addr - p.base) / p.stride < 8 then
    some (BitVec.ofNat 3 ((a.addr - p.base) / p.stride))
  else none

/-- Whether an access reaches REGS: it touches a byte of the block, `BASE .. BASE + 8 * REG_STRIDE - 1`. Every other
address belongs to the platform (R30). That a wide access reaches REGS when it touches one byte of the block, and that
one of width 0 counts as one byte, is a DESIGN CHOICE (log 20). -/
def reachesRegs (p : Params) (a : BusAccess) : Bool :=
  decide (a.addr < p.base + 8 * p.stride) && decide (p.base < a.addr + max a.width 1)

/-- SEQ's own access to an offset: one byte at the slot's address (R8 "`BusRead(off)` is one 1-byte read"). -/
def slotAccess (p : Params) (off : BitVec 3) (we : Bool) (wd : Byte) : BusAccess :=
  { addr := slotAddress p off, width := 1, we := we, wd := wd }

/-! ### The bus decode key -/

/-- `K = DLAB WE OFF` (R38). -/
def busKey (dlab we : Bool) (off : BitVec 3) : BitVec 5 := BitVec.ofBool dlab ++ BitVec.ofBool we ++ off

/-- The operation a key selects (R39), with `wd` the byte a write carries. -/
def decodeKey (key : BitVec 5) (wd : Byte) : Except DecodeError Instr :=
  match key.extractLsb' 0 3, key.getLsbD 3, key.getLsbD 4 with
  | 0#3, false, false => .ok .rbrRd
  | 0#3, true,  false => .ok (.thrWr wd)
  | 0#3, false, true  => .ok .dllRd
  | 0#3, true,  true  => .ok (.dllWr wd)
  | 1#3, false, false => .ok .ierRd
  | 1#3, true,  false => .ok (.ierWr wd)
  | 1#3, false, true  => .ok .dlmRd
  | 1#3, true,  true  => .ok (.dlmWr wd)
  | 3#3, false, _     => .ok .lcrRd
  | 3#3, true,  _     => .ok (.lcrWr wd)
  | 5#3, false, _     => .ok .lsrRd
  | 5#3, true,  _     => .ok (.lsrWr wd)
  | _,   _,     _     => .error .undecodedOffset

/-! ### The command word -/

/-- `OP = C[7:0]` (R40). -/
def opcodeOf (c : Word) : BitVec 8 := c.extractLsb' 0 8

/-- Which name an ill-formed operand is rejected under: R44 (c) for a parity code, (d) and (e) for an offset. -/
def operandError : Instr → DecodeError
  | .setpar _ | .init _ _ _ _ _ => .reservedParity
  | _ => .refusedOffset

/-- A word whose `OP` names `i`: legal when its reserved bits are 0 and the operands are (R44 b to e). -/
def checkCommand (reservedClear : Bool) (i : Instr) : Except DecodeError Instr :=
  if reservedClear then (if i.wellFormed then .ok i else .error (operandError i)) else .error .reservedBitSet

/-- The command a word spells (R40 to R44). The reserved bits of each format are those of R41's table. -/
def decodeCommand (c : Word) : Except DecodeError Instr :=
  match opcodeOf c with
  | 0x01#8 => checkCommand (c.extractLsb' 8 24 == 0#24) .getdiv
  | 0x02#8 => checkCommand (c.extractLsb' 24 8 == 0#8) (.setdiv (c.extractLsb' 8 16))
  | 0x03#8 => checkCommand (c.extractLsb' 8 24 == 0#24) .getpar
  | 0x04#8 => checkCommand (c.extractLsb' 11 21 == 0#21) (.setpar (c.extractLsb' 8 3))
  | 0x05#8 => checkCommand (c.extractLsb' 8 24 == 0#24) .getstop
  | 0x06#8 => checkCommand (c.extractLsb' 9 23 == 0#23) (.setstop (c.extractLsb' 8 1))
  | 0x07#8 => checkCommand (c.extractLsb' 8 24 == 0#24) .getwlen
  | 0x08#8 => checkCommand (c.extractLsb' 10 22 == 0#22) (.setwlen (c.extractLsb' 8 2))
  | 0x09#8 => checkCommand (c.extractLsb' 15 1 == 0#1)
      (.init (c.extractLsb' 8 1) (c.extractLsb' 9 3) (c.extractLsb' 12 1) (c.extractLsb' 13 2) (c.extractLsb' 16 16))
  | 0x0A#8 => checkCommand (c.extractLsb' 8 24 == 0#24) .getcfg
  | 0x10#8 => checkCommand (c.extractLsb' 24 8 == 0#8) (.read (c.extractLsb' 8 16))
  | 0x11#8 => checkCommand (c.extractLsb' 24 8 == 0#8) (.write (c.extractLsb' 8 16))
  | 0x12#8 => checkCommand (c.extractLsb' 8 24 == 0#24) .flush
  | 0x13#8 => checkCommand (c.extractLsb' 8 24 == 0#24) .rdnb
  | 0x14#8 => checkCommand (c.extractLsb' 16 16 == 0#16) (.wrnb (c.extractLsb' 8 8))
  | 0x15#8 => checkCommand (c.extractLsb' 8 24 == 0#24) .flnb
  | 0x16#8 => checkCommand (c.extractLsb' 8 24 == 0#24) .rdrdy
  | 0x17#8 => checkCommand (c.extractLsb' 8 24 == 0#24) .wrrdy
  | 0x20#8 => checkCommand (c.extractLsb' 11 21 == 0#21) (.regrd (c.extractLsb' 8 3))
  | 0x21#8 => checkCommand (c.extractLsb' 11 5 == 0#5 && c.extractLsb' 24 8 == 0#8)
      (.regwr (c.extractLsb' 8 3) (c.extractLsb' 16 8))
  | _ => .error .unassignedOpcode

/-- The instruction that is presented, by the decoder of the port it is presented at. -/
def decode : Encoded → Except DecodeError Instr
  | .command c => decodeCommand c
  | .access key wd => decodeKey key wd

/-! ### The opcode map as the spec prints it -/

/-- A row of R43: the opcode's `match` word and its `mask`. -/
structure OpcodeRow where
  pattern : Word
  mask    : Word
  deriving DecidableEq, Repr

/-- A word selects a row when `C & mask = match` (R43). -/
def OpcodeRow.selects (r : OpcodeRow) (c : Word) : Bool := c &&& r.mask == r.pattern

/-- The row of R43 a command constructor stands in; none for a bus operation. -/
def opcodeRow : Instr → Option OpcodeRow
  | .getdiv          => some ⟨0x00000001, 0xFFFFFFFF⟩
  | .setdiv _        => some ⟨0x00000002, 0xFF0000FF⟩
  | .getpar          => some ⟨0x00000003, 0xFFFFFFFF⟩
  | .setpar _        => some ⟨0x00000004, 0xFFFFF8FF⟩
  | .getstop         => some ⟨0x00000005, 0xFFFFFFFF⟩
  | .setstop _       => some ⟨0x00000006, 0xFFFFFEFF⟩
  | .getwlen         => some ⟨0x00000007, 0xFFFFFFFF⟩
  | .setwlen _       => some ⟨0x00000008, 0xFFFFFCFF⟩
  | .init _ _ _ _ _  => some ⟨0x00000009, 0x000080FF⟩
  | .getcfg          => some ⟨0x0000000A, 0xFFFFFFFF⟩
  | .read _          => some ⟨0x00000010, 0xFF0000FF⟩
  | .write _         => some ⟨0x00000011, 0xFF0000FF⟩
  | .flush           => some ⟨0x00000012, 0xFFFFFFFF⟩
  | .rdnb            => some ⟨0x00000013, 0xFFFFFFFF⟩
  | .wrnb _          => some ⟨0x00000014, 0xFFFF00FF⟩
  | .flnb            => some ⟨0x00000015, 0xFFFFFFFF⟩
  | .rdrdy           => some ⟨0x00000016, 0xFFFFFFFF⟩
  | .wrrdy           => some ⟨0x00000017, 0xFFFFFFFF⟩
  | .regrd _         => some ⟨0x00000020, 0xFFFFF8FF⟩
  | .regwr _ _       => some ⟨0x00000021, 0xFF00F8FF⟩
  | .rbrRd | .thrWr _ | .dllRd | .dllWr _ | .ierRd | .ierWr _ | .dlmRd | .dlmWr _ | .lcrRd | .lcrWr _
  | .lsrRd | .lsrWr _ => none

/-- The twenty rows of R43, in its order. -/
def opcodeRows : List OpcodeRow :=
  [Instr.getdiv, .setdiv 0, .getpar, .setpar 0, .getstop, .setstop 0, .getwlen, .setwlen 0, .init 0 0 0 0 0,
   .getcfg].filterMap opcodeRow ++
  [Instr.read 0, .write 0, .flush, .rdnb, .wrnb 0, .flnb, .rdrdy, .wrrdy, .regrd 0, .regwr 0 0].filterMap opcodeRow

/-! ### The encoder -/

/-- The encoding of an instruction: each command's word as its rule writes it (R69 to R89, "Encoding"), and each
bus operation's key of R39, with `dlab` in the places R39 marks `x`. A read carries no write data (0). -/
def encode (dlab : Bool) : Instr → Encoded
  | .getdiv     => .command 0x00000001#32
  | .setdiv d   => .command (0x00000002#32 ||| d.setWidth 32 <<< 8)
  | .getpar     => .command 0x00000003#32
  | .setpar p   => .command (0x00000004#32 ||| p.setWidth 32 <<< 8)
  | .getstop    => .command 0x00000005#32
  | .setstop k  => .command (0x00000006#32 ||| k.setWidth 32 <<< 8)
  | .getwlen    => .command 0x00000007#32
  | .setwlen n  => .command (0x00000008#32 ||| n.setWidth 32 <<< 8)
  | .init h p k n d => .command (0x00000009#32 ||| h.setWidth 32 <<< 8 ||| p.setWidth 32 <<< 9
      ||| k.setWidth 32 <<< 12 ||| n.setWidth 32 <<< 13 ||| d.setWidth 32 <<< 16)
  | .getcfg     => .command 0x0000000A#32
  | .read len   => .command (0x00000010#32 ||| len.setWidth 32 <<< 8)
  | .write len  => .command (0x00000011#32 ||| len.setWidth 32 <<< 8)
  | .flush      => .command 0x00000012#32
  | .rdnb       => .command 0x00000013#32
  | .wrnb b     => .command (0x00000014#32 ||| b.setWidth 32 <<< 8)
  | .flnb       => .command 0x00000015#32
  | .rdrdy      => .command 0x00000016#32
  | .wrrdy      => .command 0x00000017#32
  | .regrd off  => .command (0x00000020#32 ||| off.setWidth 32 <<< 8)
  | .regwr off v => .command (0x00000021#32 ||| off.setWidth 32 <<< 8 ||| v.setWidth 32 <<< 16)
  | .rbrRd      => .access (busKey false false offA) 0#8
  | .thrWr wd   => .access (busKey false true offA) wd
  | .dllRd      => .access (busKey true false offA) 0#8
  | .dllWr wd   => .access (busKey true true offA) wd
  | .ierRd      => .access (busKey false false offB) 0#8
  | .ierWr wd   => .access (busKey false true offB) wd
  | .dlmRd      => .access (busKey true false offB) 0#8
  | .dlmWr wd   => .access (busKey true true offB) wd
  | .lcrRd      => .access (busKey dlab false offLcr) 0#8
  | .lcrWr wd   => .access (busKey dlab true offLcr) wd
  | .lsrRd      => .access (busKey dlab false offLsr) 0#8
  | .lsrWr wd   => .access (busKey dlab true offLsr) wd

/-! ### The opcode table's numbering of bits -/

/-- The presented form of `nbits` table bits `w`. A command word is 32 bits (R40). A bus row's key is five bits,
carried in the low bits of a first byte, with the write data in a second byte, which is 0 when the table gives
the row one byte (log 9). -/
def tableLayout (nbits w : Nat) : Option Encoded :=
  if nbits = 32 then some (.command (BitVec.ofNat 32 w))
  else if nbits = 8 then some (.access (BitVec.ofNat 5 w) 0#8)
  else if nbits = 16 then some (.access (BitVec.ofNat 5 w) (BitVec.ofNat 8 (w / 256)))
  else none

/-- The instruction the decoder reads from an instruction's bits as spec/opcode_table.json numbers them. -/
def decodeTableWord (nbits w : Nat) : Option Instr :=
  match tableLayout nbits w with
  | none => none
  | some e => (decode e).toOption

end Sys2Proof
end

