-- ==== Sys2Proof/Machine/State.lean ====
section
/-! DEFINITION. The state of the block, all of spec/10_state.md R11 and R21 with the ports of R24 and R45, as
plain data, the reasons a step can stop, and the state after reset (spec/70_reset_and_hazards.md R113). -/

namespace Sys2Proof.Machine

/-- The codes of the model fault marks (spec/60_exceptions.md R101). They stop nothing (R102). -/
inductive FaultCode where
  /-- `FLT_TX_OVERWRITE`: a THR write while TXQ is full (R51). -/
  | txOverwrite
  /-- `FLT_RO_WRITE`: a write to the read-only LSR (R61). -/
  | roWrite
  /-- `FLT_BAD_ACCESS`: an undecoded access (R62, R26). -/
  | badAccess
  deriving DecidableEq, Repr

/-- `REGS.faults : Set FaultCode` (R11): one membership bit per code, so that equal sets are equal data (log 18). -/
structure FaultMarks where
  txOverwrite : Bool
  roWrite     : Bool
  badAccess   : Bool
  deriving DecidableEq, Repr

/-- The empty fault set. -/
def FaultMarks.none : FaultMarks := { txOverwrite := false, roWrite := false, badAccess := false }

/-- `REGS`: exactly the state of R11. LSR, RBR and THR are not storage. -/
structure Regs where
  lcr  : Byte
  dll  : Byte
  dlm  : Byte
  ier  : Byte
  /-- Receive storage, oldest byte first (R19). -/
  rxq  : List Byte
  /-- Transmit holding storage, oldest byte first (R19). -/
  txq  : List Byte
  /-- Transmit shift register; `none` is idle (R19). -/
  tsr  : Option Byte
  oe   : Bool
  pe   : Bool
  fe   : Bool
  bi   : Bool
  b7   : Bool
  /-- The bytes that have fully left the shift register, in order; an observation (R20). -/
  wire : List Byte
  faults : FaultMarks
  deriving DecidableEq, Repr

/-- Whether a command is in flight (R21). -/
inductive Phase where
  | idle
  | busy
  deriving DecidableEq, Repr

/-- The micro-program labels `SEQ.pc` ranges over (R21, R22): one for each bus access a micro-program of
spec/41 and spec/42 makes, the spin hint, and the start of READ and WRITE, which makes no access. -/
inductive Label where
  /-- `s <- BusRead(OFF_LCR)` of GETDIV and SETDIV. -/
  | lcrSave
  /-- `BusWrite(OFF_LCR, s | 0x80)`. -/
  | latchOpen
  /-- The access to `OFF_A` in the latch window. -/
  | divLow
  /-- The access to `OFF_B` in the latch window. -/
  | divHigh
  /-- `BusWrite(OFF_LCR, s)`. -/
  | lcrRestore
  /-- The LCR read of GETPAR and SETPAR. -/
  | parRead
  /-- The LCR write of SETPAR. -/
  | parWrite
  /-- The LCR read of GETSTOP and SETSTOP. -/
  | stopRead
  /-- The LCR write of SETSTOP. -/
  | stopWrite
  /-- The LCR read of GETWLEN and SETWLEN. -/
  | wlenRead
  /-- The LCR write of SETWLEN. -/
  | wlenWrite
  /-- The one access of REGRD and REGWR. -/
  | rawAccess
  /-- `i <- 0; cnt <- 0; out <- []` of READ and WRITE, with the loop's first test. -/
  | start
  /-- `t <- BusRead(OFF_LSR)`. -/
  | poll
  /-- The access to `OFF_A` after a poll. -/
  | data
  /-- `SpinHint()`. -/
  | spin
  deriving DecidableEq, Repr

/-- `SEQ`: the working registers of R21, with the locals `p` and `k` that GETCFG's micro-program names (R79, log 6). -/
structure Seq where
  phase   : Phase
  /-- The command word being executed. -/
  cmd     : Word
  /-- The bytes a WRITE command carries. -/
  payload : List Byte
  /-- Position in the micro-program; `none` while IDLE (R22). -/
  pc      : Option Label
  /-- Saved LCR value. -/
  s       : Byte
  lo      : Byte
  hi      : Byte
  /-- The last LSR value polled. -/
  t       : Byte
  /-- Slot index. -/
  i       : Half
  /-- Completed-slot count. -/
  cnt     : Half
  /-- Bytes READ has received. -/
  out     : List Byte
  /-- GETCFG's parity code. -/
  p       : BitVec 3
  /-- GETCFG's stop-bit selector. -/
  k       : BitVec 1
  deriving DecidableEq, Repr

/-- What a result's status says (R45); its two bits are `Status.code`. -/
inductive Status where
  | ok
  | wouldBlock
  | illegal
  deriving DecidableEq, Repr

/-- A result `(status, value, data)` (R45). -/
structure Result where
  /-- The 2-bit code: 0 `OK`, 1 `WOULD_BLOCK`, 2 `ILLEGAL`; 3 is never produced. -/
  status : BitVec 2
  value  : Word
  data   : List Byte
  deriving DecidableEq, Repr

/-- The whole machine: the block's parameters, REGS, SEQ and its two ports, and the model's own fields
(INVENTORY.md, "## State"). -/
structure State where
  params : Params
  regs   : Regs
  seq    : Seq
  /-- The command HOST is presenting (R99). -/
  port   : Option Command
  /-- The result on the result port (R45). -/
  result : Option Result
  /-- `RD`, the byte the last bus read returned (R38). The model's own field. -/
  rd     : Byte
  /-- An access that a master outside the block is presenting (R61, R26). The model's own field. -/
  ext    : Option BusAccess
  /-- Who moves next, in order (R97). The model's own field. -/
  agenda : List Move
  /-- How many moves have been taken. The model's own field. -/
  ticks  : Nat
  /-- How many `draw()` values have been taken. The model's own field. -/
  draws  : Nat
  deriving DecidableEq, Repr

/-- Why the machine stops. -/
inductive Fault where
  /-- SEQ is BUSY and has no step to take: its `pc` is `none`, or a label that is not in the command's
  micro-program, or `cmd` spells no command, or a WRITE's payload ends before the slot. Raised by `Machine.micro`
  and `Machine.seqStep`. Safe: no run from a launch state (R114) reaches such a state (log 10). -/
  | noMicroStep
  deriving DecidableEq, Repr

/-- Why an instruction is refused. -/
inductive Refusal where
  /-- An instruction with no meaning yet, raised only by an arm of `exec`. Safe: it stops where the hardware
  goes on. No arm of this model raises it. -/
  | notModelled (mnemonic : String)
  deriving DecidableEq, Repr

/-- How many `draw()` values a reset takes: DLL, DLM and the working registers R113 leaves unspecified. -/
def State.resetDraws : Nat := 17

/-- Every piece of state as R113 leaves it. The values R113 calls unspecified are the free values from draw
`n` on. What is not the block's (parameters, agenda, moves taken, an outside master's access) stays. -/
def State.afterReset (params : Params) (n : Nat) (ext : Option BusAccess) (agenda : List Move) (ticks : Nat) :
    State :=
  { params := params
    regs :=
      { lcr := 0x00#8, dll := Config.draw n, dlm := Config.draw (n + 1), ier := 0x00#8
        rxq := [], txq := [], tsr := none
        oe := false, pe := false, fe := false, bi := false, b7 := false
        wire := [], faults := FaultMarks.none }
    seq :=
      { phase := .idle
        cmd := Config.draw (n + 2) ++ Config.draw (n + 3) ++ Config.draw (n + 4) ++ Config.draw (n + 5)
        payload := [], pc := none
        s := Config.draw (n + 6), lo := Config.draw (n + 7), hi := Config.draw (n + 8), t := Config.draw (n + 9)
        i := Config.draw (n + 10) ++ Config.draw (n + 11)
        cnt := Config.draw (n + 12) ++ Config.draw (n + 13)
        out := []
        p := (Config.draw (n + 14)).setWidth 3, k := (Config.draw (n + 15)).setWidth 1 }
    port := none
    result := none
    rd := Config.draw (n + 16)
    ext := ext
    agenda := agenda
    ticks := ticks
    draws := n + resetDraws }

/-- The machine right after reset (R113), with the default parameters of R5 and no move scheduled. -/
def State.reset : State := State.afterReset Params.default 0 none [] 0

end Sys2Proof.Machine
end

