-- ==== Sys2Proof/Machine/Flags.lean ====
section
/-! DEFINITION. The line status flags (spec/10_state.md R14). DR, THRE and TEMT are computed from the queues;
the LSR byte is assembled from the state at the moment of the read. -/

namespace Sys2Proof.Machine

/-- `DR = (RXQ != [])` (R14). -/
def Regs.dr (r : Regs) : Bool := !r.rxq.isEmpty

/-- `THRE = (TXQ == [])` (R14; conflict C5: empty, not "not full"). -/
def Regs.thre (r : Regs) : Bool := r.txq.isEmpty

/-- `TEMT = (TXQ == []) and (TSR == none)` (R14). -/
def Regs.temt (r : Regs) : Bool := r.txq.isEmpty && r.tsr.isNone

/-- `LSR = { B7, TEMT, THRE, BI, FE, PE, OE, DR }`, bit 7 down to bit 0 (R14). -/
def Regs.lsr (r : Regs) : Byte :=
  BitVec.ofBool r.b7 ++ BitVec.ofBool r.temt ++ BitVec.ofBool r.thre ++ BitVec.ofBool r.bi
    ++ BitVec.ofBool r.fe ++ BitVec.ofBool r.pe ++ BitVec.ofBool r.oe ++ BitVec.ofBool r.dr

/-- DR as a polled value shows it: `t[0]` (spec/42). -/
def polledDr (t : Byte) : Bool := t.getLsbD 0

/-- THRE as a polled value shows it: `t[5]`. -/
def polledThre (t : Byte) : Bool := t.getLsbD 5

/-- TEMT as a polled value shows it: `t[6]`. -/
def polledTemt (t : Byte) : Bool := t.getLsbD 6

/-- The flags an LSR read clears under `LSR_RD_CLEARS` (R60). -/
def Regs.clearErrors (r : Regs) : Regs :=
  { r with oe := false, pe := false, fe := false, bi := false, b7 := false }

end Sys2Proof.Machine
end

