-- ==== Sys2Proof/Machine/Operands.lean ====
section
/-! DEFINITION. The line-control codec and the divisor (spec/41_config_commands.md R63 to R66, R68;
spec/10_state.md R12, R17): how commands take fields out of LCR and put them in. -/

namespace Sys2Proof.Machine

/-- `LCR.DLAB`, bit 7 (R12). -/
def dlabOf (v : Byte) : Bool := v.getLsbD 7

/-- `s | 0x80`: the value that opens the latch window (R69, R70). -/
def withLatch (v : Byte) : Byte := v ||| 0x80#8

/-- `wls(v) = v[1:0]` (R63). -/
def wls (v : Byte) : BitVec 2 := v.extractLsb' 0 2

/-- `set_wls(v, n) = (v & 0xFC) | n` (R63). -/
def setWls (v : Byte) (n : BitVec 2) : Byte := (v &&& 0xFC#8) ||| n.setWidth 8

/-- The data bits a word-length code means: `n + 5` (R63). -/
def dataBits (n : BitVec 2) : Nat := n.toNat + 5

/-- `stb(v) = v[2]` (R64). -/
def stb (v : Byte) : BitVec 1 := v.extractLsb' 2 1

/-- `set_stb(v, k) = (v & 0xFB) | (k << 2)` (R64). -/
def setStb (v : Byte) (k : BitVec 1) : Byte := (v &&& 0xFB#8) ||| (k.setWidth 8 <<< 2)

/-- The stop bits a selector means, counted in half bits: 2 is one, 3 is one and a half, 4 is two (R64's table). -/
def stopHalfBits (k : BitVec 1) (n : BitVec 2) : Nat :=
  if k = 0#1 then 2 else if n = 0#2 then 3 else 4

/-- `par_enc(p)`, R65's table; the reserved codes 5, 6 and 7 have no encoding. -/
def parEnc (p : BitVec 3) : Option Byte :=
  match p with
  | 0#3 => some 0x00#8
  | 1#3 => some 0x08#8
  | 2#3 => some 0x18#8
  | 3#3 => some 0x28#8
  | 4#3 => some 0x38#8
  | _ => none

/-- `set_par(v, p) = (v & 0xC7) | par_enc(p)` (R65). -/
def setPar (v : Byte) (p : BitVec 3) : Option Byte :=
  match parEnc p with
  | some e => some ((v &&& 0xC7#8) ||| e)
  | none => none

/-- `par_dec(v)`, total over PEN = v[3], EPS = v[4], SP = v[5] (R66). -/
def parDec (v : Byte) : BitVec 3 :=
  match v.getLsbD 3, v.getLsbD 5, v.getLsbD 4 with
  | false, _, _ => 0#3
  | true, false, false => 1#3
  | true, false, true => 2#3
  | true, true, false => 3#3
  | true, true, true => 4#3

/-- `d[7:0]`, for DLL (R68). -/
def divLo (d : Half) : Byte := d.extractLsb' 0 8

/-- `d[15:8]`, for DLM (R68). -/
def divHi (d : Half) : Byte := d.extractLsb' 8 8

/-- `{hi, lo}` (R17, R68). -/
def divOf (hi lo : Byte) : Half := hi ++ lo

/-- The divisor the latch holds: `DL = {DLM, DLL}` (R17). -/
def Regs.dl (r : Regs) : Half := divOf r.dlm r.dll

/-- GETCFG's packing: `zext_32(d) | p << 16 | k << 19 | n << 20` (R79). -/
def packConfig (d : Half) (p : BitVec 3) (k : BitVec 1) (n : BitVec 2) : Word :=
  d.setWidth 32 ||| p.setWidth 32 <<< 16 ||| k.setWidth 32 <<< 19 ||| n.setWidth 32 <<< 20

end Sys2Proof.Machine
end

