-- ==== Sys2Proof/Machine/Ops.lean ====
section
/-! DEFINITION. The shared operations: the twelve register operations of spec/40_register_mux.md and the
undecoded access, the multiplexer in front of them, SEQ's bus primitives (spec/00_scope.md R8), fault marks
(R10, spec/60 R102), and the acceptance, stepping and return of a command (spec/60 R99, spec/10 R22). There is no
trap to take and none to return from (R104). -/

namespace Sys2Proof.Machine

/-! ### Fault marks -/

/-- `raise Fault(code)`: adds the code, which stays (R10, R102). -/
def FaultMarks.add (m : FaultMarks) : FaultCode → FaultMarks
  | .txOverwrite => { m with txOverwrite := true }
  | .roWrite => { m with roWrite := true }
  | .badAccess => { m with badAccess := true }

/-- `code ∈ faults`. -/
def FaultMarks.has (m : FaultMarks) : FaultCode → Bool
  | .txOverwrite => m.txOverwrite
  | .roWrite => m.roWrite
  | .badAccess => m.badAccess

/-- `raise Fault(code)` on the machine. -/
def State.raise (c : FaultCode) (s : State) : State :=
  { s with regs := { s.regs with faults := s.regs.faults.add c } }

/-! ### The register operations -/

/-- A read returns a `draw()`; nothing else changes. -/
def State.readDraw (s : State) : State :=
  { s with rd := Config.draw s.draws, draws := s.draws + 1 }

/-- A read returns the byte `v`. -/
def State.readByte (v : Byte) (s : State) : State := { s with rd := v }

/-- RBR_RD (R50): removes and returns the head of RXQ; a draw when RXQ is empty (D14). -/
def rbrRead (s : State) : State :=
  match s.regs.rxq with
  | b :: rest => { s with rd := b, regs := { s.regs with rxq := rest } }
  | [] => s.readDraw

/-- The `n` bytes an overwrite leaves in TXQ, each a draw (R51, D15). -/
def drawnBytes (start n : Nat) : List Byte := (List.range n).map fun j => Config.draw (start + j)

/-- THR_WR (R51): appends to TXQ, or marks the overwrite and leaves `TX_DEPTH` drawn bytes. -/
def thrWrite (wd : Byte) (s : State) : State :=
  if s.regs.txq.length < s.params.txDepth then
    { s with regs := { s.regs with txq := s.regs.txq ++ [wd] } }
  else
    let s1 := s.raise .txOverwrite
    { s1 with
      regs := { s1.regs with txq := drawnBytes s.draws s.params.txDepth }
      draws := s.draws + s.params.txDepth }

/-- DLL_RD (R52). -/
def dllRead (s : State) : State := s.readByte s.regs.dll

/-- DLL_WR (R53). -/
def dllWrite (wd : Byte) (s : State) : State := { s with regs := { s.regs with dll := wd } }

/-- IER_RD (R54): `{ draw()[7:4], IER[3:0] }`. -/
def ierRead (s : State) : State :=
  { s with
    rd := (Config.draw s.draws).extractLsb' 4 4 ++ s.regs.ier.extractLsb' 0 4
    draws := s.draws + 1 }

/-- IER_WR (R55). -/
def ierWrite (wd : Byte) (s : State) : State := { s with regs := { s.regs with ier := wd } }

/-- DLM_RD (R56). -/
def dlmRead (s : State) : State := s.readByte s.regs.dlm

/-- DLM_WR (R57). -/
def dlmWrite (wd : Byte) (s : State) : State := { s with regs := { s.regs with dlm := wd } }

/-- LCR_RD (R58). -/
def lcrRead (s : State) : State := s.readByte s.regs.lcr

/-- LCR_WR (R59). -/
def lcrWrite (wd : Byte) (s : State) : State := { s with regs := { s.regs with lcr := wd } }

/-- LSR_RD (R60): samples the eight flags, then clears the error flags when `LSR_RD_CLEARS`. -/
def lsrRead (s : State) : State :=
  { s with
    rd := s.regs.lsr
    regs := if s.params.lsrRdClears then s.regs.clearErrors else s.regs }

/-- LSR_WR (R61): only the fault mark; the data is ignored. -/
def lsrWrite (_wd : Byte) (s : State) : State := s.raise .roWrite

/-- An undecoded access (R62, R26): the fault mark, and a draw on a read. -/
def undecodedAccess (we : Bool) (s : State) : State :=
  if we then s.raise .badAccess else (s.raise .badAccess).readDraw

/-- The step REGS takes for the operation its decode key selects. A command is no register operation: REGS
does nothing for it, and no key decodes to one. -/
def regsApply (i : Instr) (s : State) : State :=
  match i with
  | .rbrRd => rbrRead s
  | .thrWr wd => thrWrite wd s
  | .dllRd => dllRead s
  | .dllWr wd => dllWrite wd s
  | .ierRd => ierRead s
  | .ierWr wd => ierWrite wd s
  | .dlmRd => dlmRead s
  | .dlmWr wd => dlmWrite wd s
  | .lcrRd => lcrRead s
  | .lcrWr wd => lcrWrite wd s
  | .lsrRd => lsrRead s
  | .lsrWr wd => lsrWrite wd s
  | .getdiv | .setdiv _ | .getpar | .setpar _ | .getstop | .setstop _ | .getwlen | .setwlen _
  | .init _ _ _ _ _ | .getcfg | .read _ | .write _ | .flush | .rdnb | .wrnb _ | .flnb | .rdrdy | .wrrdy
  | .regrd _ | .regwr _ _ => s

/-! ### SEQ's bus primitives -/

/-- `LCR.DLAB`, sampled at the instant of the access (R48). -/
def State.dlab (s : State) : Bool := dlabOf s.regs.lcr

/-- One 1-byte access at a register offset, answered by the operation its key selects (R8, R38). -/
def busAccess (we : Bool) (off : BitVec 3) (wd : Byte) (s : State) : State :=
  match decodeKey (busKey s.dlab we off) wd with
  | .ok i => regsApply i s
  | .error _ => undecodedAccess we s

/-- `BusRead(off)` (R8): the byte returned is `rd` of the result. -/
def busRead (off : BitVec 3) (s : State) : State := busAccess false off 0#8 s

/-- `BusWrite(off, v)` (R8). -/
def busWrite (off : BitVec 3) (v : Byte) (s : State) : State := busAccess true off v s

/-! ### Accepting, stepping and returning -/

/-- The micro-program goes to a label (R22). -/
def State.goto (l : Label) (s : State) : State := { s with seq := { s.seq with pc := some l } }

/-- The 2-bit code of a status: 0 is `OK`, 1 is `WOULD_BLOCK`, 2 is `ILLEGAL` (R45, R100). -/
def Status.code : Status → BitVec 2
  | .ok => 0#2
  | .wouldBlock => 1#2
  | .illegal => 2#2

/-- `return (status, value, data)` (R9, R22): SEQ is IDLE again, and the result is on the result port. -/
def State.ret (st : Status) (v : Word) (data : List Byte) (s : State) : State :=
  { s with
    seq := { s.seq with phase := .idle, pc := none }
    result := some { status := st.code, value := v, data := data } }

/-- The rejection of R99: the result `(ILLEGAL, 0, [])` and no other change; the command is no longer presented. -/
def State.reject (s : State) : State :=
  { s with port := none, result := some { status := Status.illegal.code, value := 0#32, data := [] } }

/-- The start of R99: the command is latched, SEQ is BUSY, and `pc` is at the first step. The command is no longer
presented, and the result port is empty until the return (log 12). -/
def State.begin (c : Command) (first : Label) (s : State) : State :=
  { s with
    seq := { s.seq with cmd := c.word, payload := c.payload, phase := .busy, pc := some first }
    port := none
    result := none }

/-- Acceptance (R99): one atomic SEQ step that rejects or starts the presented command. With nothing presented
SEQ waits (R113). -/
def accept (i : Instr) (first : Label) (s : State) : State :=
  match s.port with
  | none => s
  | some c => if i.wellFormed && payloadFits i c.payload then s.begin c first else s.reject

/-- One SEQ step of a command (R9, R22): acceptance while IDLE, the micro-program's step at `pc` while BUSY.
`body l s` is the step at label `l`, `none` where the command has no such label. -/
def micro (i : Instr) (first : Label) (body : Label → State → Option State) (s : State) :
    Host.Outcome State Fault Refusal :=
  match s.seq.phase, s.seq.pc with
  | .idle, _ => .next (accept i first s)
  | .busy, none => .fault .noMicroStep
  | .busy, some l =>
    match body l s with
    | some t => .next t
    | none => .fault .noMicroStep

/-! ### Steps that several micro-programs share -/

/-- `s <- BusRead(OFF_LCR)`, then the next label. -/
def readIntoS (next : Label) (s : State) : State :=
  let s1 := busRead offLcr s
  { s1 with seq := { s1.seq with s := s1.rd, pc := some next } }

/-- `t <- BusRead(off)`. -/
def readIntoT (off : BitVec 3) (s : State) : State :=
  let s1 := busRead off s
  { s1 with seq := { s1.seq with t := s1.rd } }

/-- The steps of SETDIV (R70), going on with `after` after the last access. -/
def setdivSteps (d : Half) (after : State → State) (l : Label) (s : State) : Option State :=
  match l with
  | .lcrSave => some (readIntoS .latchOpen s)
  | .latchOpen => some ((busWrite offLcr (withLatch s.seq.s) s).goto .divLow)
  | .divLow => some ((busWrite offA (divLo d) s).goto .divHigh)
  | .divHigh => some ((busWrite offB (divHi d) s).goto .lcrRestore)
  | .lcrRestore => some (after (busWrite offLcr s.seq.s s))
  | _ => none

/-- The steps of GETDIV (R69), going on with `after` after the last access, which is the restoring write only when
`GETDIV_RESTORE`. -/
def getdivSteps (after : State → State) (l : Label) (s : State) : Option State :=
  match l with
  | .lcrSave => some (readIntoS .latchOpen s)
  | .latchOpen => some ((busWrite offLcr (withLatch s.seq.s) s).goto .divLow)
  | .divLow =>
    let s1 := busRead offA s
    some { s1 with seq := { s1.seq with lo := s1.rd, pc := some .divHigh } }
  | .divHigh =>
    let s1 := busRead offB s
    let s2 := { s1 with seq := { s1.seq with hi := s1.rd } }
    some (if s.params.getdivRestore then s2.goto .lcrRestore else after s2)
  | .lcrRestore => if s.params.getdivRestore then some (after (busWrite offLcr s.seq.s s)) else none
  | _ => none

/-- The steps of SETPAR (R73), going on with `after`. -/
def setparSteps (p : BitVec 3) (after : State → State) (l : Label) (s : State) : Option State :=
  match l with
  | .parRead => some (readIntoS .parWrite s)
  | .parWrite =>
    match setPar s.seq.s p with
    | some v => some (after (busWrite offLcr v s))
    | none => none
  | _ => none

/-- The steps of SETSTOP (R75), going on with `after`. -/
def setstopSteps (k : BitVec 1) (after : State → State) (l : Label) (s : State) : Option State :=
  match l with
  | .stopRead => some (readIntoS .stopWrite s)
  | .stopWrite => some (after (busWrite offLcr (setStb s.seq.s k) s))
  | _ => none

/-- The steps of SETWLEN (R77), going on with `after`. -/
def setwlenSteps (n : BitVec 2) (after : State → State) (l : Label) (s : State) : Option State :=
  match l with
  | .wlenRead => some (readIntoS .wlenWrite s)
  | .wlenWrite => some (after (busWrite offLcr (setWls s.seq.s n) s))
  | _ => none

/-- A poll (spec/42): `t <- BusRead(OFF_LSR)`. -/
def poll (s : State) : State := readIntoT offLsr s

end Sys2Proof.Machine
end

