-- ==== Sys2Proof/Machine/Bus.lean ====
section
/-! DEFINITION. The meanings of the twelve bus operations (spec/40_register_mux.md R50 to R61). Each is one atomic
step of REGS, whoever makes the access. -/

namespace Sys2Proof.Machine

/-- RBR_RD, R50. -/
def execRbrRd (s : State) : Host.Outcome State Fault Refusal := .next (rbrRead s)

/-- THR_WR, R51. -/
def execThrWr (wd : Byte) (s : State) : Host.Outcome State Fault Refusal := .next (thrWrite wd s)

/-- DLL_RD, R52. -/
def execDllRd (s : State) : Host.Outcome State Fault Refusal := .next (dllRead s)

/-- DLL_WR, R53. -/
def execDllWr (wd : Byte) (s : State) : Host.Outcome State Fault Refusal := .next (dllWrite wd s)

/-- IER_RD, R54. -/
def execIerRd (s : State) : Host.Outcome State Fault Refusal := .next (ierRead s)

/-- IER_WR, R55. -/
def execIerWr (wd : Byte) (s : State) : Host.Outcome State Fault Refusal := .next (ierWrite wd s)

/-- DLM_RD, R56. -/
def execDlmRd (s : State) : Host.Outcome State Fault Refusal := .next (dlmRead s)

/-- DLM_WR, R57. -/
def execDlmWr (wd : Byte) (s : State) : Host.Outcome State Fault Refusal := .next (dlmWrite wd s)

/-- LCR_RD, R58. -/
def execLcrRd (s : State) : Host.Outcome State Fault Refusal := .next (lcrRead s)

/-- LCR_WR, R59. -/
def execLcrWr (wd : Byte) (s : State) : Host.Outcome State Fault Refusal := .next (lcrWrite wd s)

/-- LSR_RD, R60. -/
def execLsrRd (s : State) : Host.Outcome State Fault Refusal := .next (lsrRead s)

/-- LSR_WR, R61. -/
def execLsrWr (wd : Byte) (s : State) : Host.Outcome State Fault Refusal := .next (lsrWrite wd s)

end Sys2Proof.Machine
end

