-- ==== Sys2Proof/Machine/Configure.lean ====
section
/-! DEFINITION. The meanings of the configuration commands and of raw register access
(spec/41_config_commands.md R69 to R81). Executing a command is one SEQ step of it: acceptance while IDLE (R99),
and while BUSY the micro-program's step at `pc`, which is one bus access (R9, R22). -/

namespace Sys2Proof.Machine

/-- `return (OK, 0, [])`. -/
def State.retOk (s : State) : State := s.ret .ok 0#32 []

/-- GETDIV, R69. -/
def execGetdiv (s : State) : Host.Outcome State Fault Refusal :=
  micro .getdiv .lcrSave
    (getdivSteps fun u => u.ret .ok ((divOf u.seq.hi u.seq.lo).setWidth 32) []) s

/-- SETDIV, R70. -/
def execSetdiv (d : Half) (s : State) : Host.Outcome State Fault Refusal :=
  micro (.setdiv d) .lcrSave (setdivSteps d State.retOk) s

/-- The step of GETPAR (R72). -/
def getparStep (l : Label) (s : State) : Option State :=
  match l with
  | .parRead =>
    let s1 := readIntoT offLcr s
    some (s1.ret .ok ((parDec s1.seq.t).setWidth 32) [])
  | _ => none

/-- GETPAR, R72. -/
def execGetpar (s : State) : Host.Outcome State Fault Refusal := micro .getpar .parRead getparStep s

/-- SETPAR, R73. -/
def execSetpar (p : BitVec 3) (s : State) : Host.Outcome State Fault Refusal :=
  micro (.setpar p) .parRead (setparSteps p State.retOk) s

/-- The step of GETSTOP (R74). -/
def getstopStep (l : Label) (s : State) : Option State :=
  match l with
  | .stopRead =>
    let s1 := readIntoT offLcr s
    some (s1.ret .ok ((stb s1.seq.t).setWidth 32) [])
  | _ => none

/-- GETSTOP, R74. -/
def execGetstop (s : State) : Host.Outcome State Fault Refusal := micro .getstop .stopRead getstopStep s

/-- SETSTOP, R75. -/
def execSetstop (k : BitVec 1) (s : State) : Host.Outcome State Fault Refusal :=
  micro (.setstop k) .stopRead (setstopSteps k State.retOk) s

/-- The step of GETWLEN (R76). -/
def getwlenStep (l : Label) (s : State) : Option State :=
  match l with
  | .wlenRead =>
    let s1 := readIntoT offLcr s
    some (s1.ret .ok ((wls s1.seq.t).setWidth 32) [])
  | _ => none

/-- GETWLEN, R76. -/
def execGetwlen (s : State) : Host.Outcome State Fault Refusal := micro .getwlen .wlenRead getwlenStep s

/-- SETWLEN, R77. -/
def execSetwlen (n : BitVec 2) (s : State) : Host.Outcome State Fault Refusal :=
  micro (.setwlen n) .wlenRead (setwlenSteps n State.retOk) s

/-- The steps of INIT (R78): those of SETDIV when `HASDIV`, then of SETPAR, SETSTOP and SETWLEN (conflict C7). -/
def initSteps (h : BitVec 1) (p : BitVec 3) (k : BitVec 1) (n : BitVec 2) (d : Half) (l : Label) (s : State) :
    Option State :=
  match l with
  | .lcrSave | .latchOpen | .divLow | .divHigh | .lcrRestore =>
    if h = 1#1 then setdivSteps d (State.goto .parRead) l s else none
  | .parRead | .parWrite => setparSteps p (State.goto .stopRead) l s
  | .stopRead | .stopWrite => setstopSteps k (State.goto .wlenRead) l s
  | .wlenRead | .wlenWrite => setwlenSteps n State.retOk l s
  | .rawAccess | .start | .poll | .data | .spin => none

/-- INIT, R78. -/
def execInit (h : BitVec 1) (p : BitVec 3) (k : BitVec 1) (n : BitVec 2) (d : Half) (s : State) :
    Host.Outcome State Fault Refusal :=
  micro (.init h p k n d) (if h = 1#1 then .lcrSave else .parRead) (initSteps h p k n d) s

/-- The steps of GETCFG (R79): those of GETDIV, then the LCR reads of GETPAR, GETSTOP and GETWLEN (D25), whose
results stay in `p` and `k` until the return. -/
def getcfgSteps (l : Label) (s : State) : Option State :=
  match l with
  | .lcrSave | .latchOpen | .divLow | .divHigh | .lcrRestore => getdivSteps (State.goto .parRead) l s
  | .parRead =>
    let s1 := readIntoT offLcr s
    some { s1 with seq := { s1.seq with p := parDec s1.seq.t, pc := some .stopRead } }
  | .stopRead =>
    let s1 := readIntoT offLcr s
    some { s1 with seq := { s1.seq with k := stb s1.seq.t, pc := some .wlenRead } }
  | .wlenRead =>
    let s1 := readIntoT offLcr s
    some (s1.ret .ok (packConfig (divOf s1.seq.hi s1.seq.lo) s1.seq.p s1.seq.k (wls s1.seq.t)) [])
  | .parWrite | .stopWrite | .wlenWrite | .rawAccess | .start | .poll | .data | .spin => none

/-- GETCFG, R79. -/
def execGetcfg (s : State) : Host.Outcome State Fault Refusal := micro .getcfg .lcrSave getcfgSteps s

/-- The step of REGRD (R80): the access, whatever the multiplexer selects, and its byte as the value. -/
def regrdStep (off : BitVec 3) (l : Label) (s : State) : Option State :=
  match l with
  | .rawAccess =>
    let s1 := readIntoT off s
    some (s1.ret .ok (s1.seq.t.setWidth 32) [])
  | _ => none

/-- REGRD, R80. -/
def execRegrd (off : BitVec 3) (s : State) : Host.Outcome State Fault Refusal :=
  micro (.regrd off) .rawAccess (regrdStep off) s

/-- The step of REGWR (R81): the access, with no status gate (R121). -/
def regwrStep (off : BitVec 3) (v : Byte) (l : Label) (s : State) : Option State :=
  match l with
  | .rawAccess => some (busWrite off v s).retOk
  | _ => none

/-- REGWR, R81. -/
def execRegwr (off : BitVec 3) (v : Byte) (s : State) : Host.Outcome State Fault Refusal :=
  micro (.regwr off v) .rawAccess (regwrStep off v) s

end Sys2Proof.Machine
end

