-- ==== Sys2Proof/Machine/Transfer.lean ====
section
/-! DEFINITION. The meanings of the polled transfer commands (spec/42_transfer_commands.md R82 to R89). One
execution is one SEQ step: acceptance while IDLE (R99), and while BUSY the poll, the data access or the spin hint at
`pc` (R9, R22), with the micro-program's test on the value just read. -/

namespace Sys2Proof.Machine

/-- `return (OK, zext_32(cnt), out)` of READ (R82). -/
def readReturn (s : State) : State := s.ret .ok (s.seq.cnt.setWidth 32) s.seq.out

/-- READ's loop test, `while i < LEN` (R82). -/
def readLoop (len : Half) (s : State) : State := if s.seq.i < len then s.goto .poll else readReturn s

/-- The steps of READ (R82). The initialisation makes no bus access and is a step of its own (log 13). -/
def readSteps (len : Half) (l : Label) (s : State) : Option State :=
  match l with
  | .start => some (readLoop len { s with seq := { s.seq with i := 0#16, cnt := 0#16, out := [] } })
  | .poll =>
    let s1 := poll s
    some (if polledDr s1.seq.t then s1.goto .data else readReturn s1)
  | .data =>
    let s1 := busRead offA s
    some (readLoop len
      { s1 with seq := { s1.seq with out := s1.seq.out ++ [s1.rd], cnt := s1.seq.cnt + 1#16, i := s1.seq.i + 1#16 } })
  | _ => none

/-- READ, R82. -/
def execRead (len : Half) (s : State) : Host.Outcome State Fault Refusal :=
  micro (.read len) .start (readSteps len) s

/-- `return (OK, zext_32(cnt), [])` of WRITE (R83). -/
def writeReturn (s : State) : State := s.ret .ok (s.seq.cnt.setWidth 32) []

/-- WRITE's loop test, `while i < LEN` (R83). -/
def writeLoop (len : Half) (s : State) : State := if s.seq.i < len then s.goto .poll else writeReturn s

/-- The steps of WRITE (R83). A slot past the payload's end, which acceptance rules out, has no step (log 10). -/
def writeSteps (len : Half) (l : Label) (s : State) : Option State :=
  match l with
  | .start => some (writeLoop len { s with seq := { s.seq with i := 0#16, cnt := 0#16 } })
  | .poll =>
    let s1 := poll s
    some (if polledThre s1.seq.t then s1.goto .data else writeReturn s1)
  | .data =>
    match s.seq.payload[s.seq.i.toNat]? with
    | none => none
    | some b =>
      let s1 := busWrite offA b s
      some (writeLoop len { s1 with seq := { s1.seq with cnt := s1.seq.cnt + 1#16, i := s1.seq.i + 1#16 } })
  | _ => none

/-- WRITE, R83. -/
def execWrite (len : Half) (s : State) : Host.Outcome State Fault Refusal :=
  micro (.write len) .start (writeSteps len) s

/-- The steps of FLUSH (R84): poll until TEMT is seen, with one spin hint, which changes no state, after each
unsuccessful poll. -/
def flushSteps (l : Label) (s : State) : Option State :=
  match l with
  | .poll =>
    let s1 := poll s
    some (if polledTemt s1.seq.t then s1.ret .ok 0#32 [] else s1.goto .spin)
  | .spin => some (s.goto .poll)
  | _ => none

/-- FLUSH, R84. -/
def execFlush (s : State) : Host.Outcome State Fault Refusal := micro .flush .poll flushSteps s

/-- The step of RDRDY (R85). -/
def rdrdyStep (l : Label) (s : State) : Option State :=
  match l with
  | .poll =>
    let s1 := poll s
    some (s1.ret .ok ((BitVec.ofBool (polledDr s1.seq.t)).setWidth 32) [])
  | _ => none

/-- RDRDY, R85. -/
def execRdrdy (s : State) : Host.Outcome State Fault Refusal := micro .rdrdy .poll rdrdyStep s

/-- The step of WRRDY (R86). -/
def wrrdyStep (l : Label) (s : State) : Option State :=
  match l with
  | .poll =>
    let s1 := poll s
    some (s1.ret .ok ((BitVec.ofBool (polledThre s1.seq.t)).setWidth 32) [])
  | _ => none

/-- WRRDY, R86. -/
def execWrrdy (s : State) : Host.Outcome State Fault Refusal := micro .wrrdy .poll wrrdyStep s

/-- `return (WOULD_BLOCK, 0, [])`. -/
def State.retWouldBlock (s : State) : State := s.ret .wouldBlock 0#32 []

/-- The steps of RDNB (R87). -/
def rdnbSteps (l : Label) (s : State) : Option State :=
  match l with
  | .poll =>
    let s1 := poll s
    some (if polledDr s1.seq.t then s1.goto .data else s1.retWouldBlock)
  | .data =>
    let s1 := busRead offA s
    some (s1.ret .ok (s1.rd.setWidth 32) [])
  | _ => none

/-- RDNB, R87. -/
def execRdnb (s : State) : Host.Outcome State Fault Refusal := micro .rdnb .poll rdnbSteps s

/-- The steps of WRNB (R88). -/
def wrnbSteps (b : Byte) (l : Label) (s : State) : Option State :=
  match l with
  | .poll =>
    let s1 := poll s
    some (if polledThre s1.seq.t then s1.goto .data else s1.retWouldBlock)
  | .data => some ((busWrite offA b s).ret .ok 0#32 [])
  | _ => none

/-- WRNB, R88. -/
def execWrnb (b : Byte) (s : State) : Host.Outcome State Fault Refusal := micro (.wrnb b) .poll (wrnbSteps b) s

/-- The step of FLNB (R89). -/
def flnbStep (l : Label) (s : State) : Option State :=
  match l with
  | .poll =>
    let s1 := poll s
    some (if polledTemt s1.seq.t then s1.ret .ok 0#32 [] else s1.retWouldBlock)
  | _ => none

/-- FLNB, R89. -/
def execFlnb (s : State) : Host.Outcome State Fault Refusal := micro .flnb .poll flnbStep s

end Sys2Proof.Machine
end

