-- ==== Sys2Proof/Machine/Dispatch.lean ====
section
/-! DEFINITION. One arm per instruction: exec runs one atomic step of it. -/

namespace Sys2Proof.Machine

def exec (i : Instr) (s : State) : Host.Outcome State Fault Refusal :=
  match i with
  | .getdiv => Sys2Proof.Machine.execGetdiv s
  | .setdiv d => Sys2Proof.Machine.execSetdiv d s
  | .getpar => Sys2Proof.Machine.execGetpar s
  | .setpar p => Sys2Proof.Machine.execSetpar p s
  | .getstop => Sys2Proof.Machine.execGetstop s
  | .setstop k => Sys2Proof.Machine.execSetstop k s
  | .getwlen => Sys2Proof.Machine.execGetwlen s
  | .setwlen n => Sys2Proof.Machine.execSetwlen n s
  | .init h p k n d => Sys2Proof.Machine.execInit h p k n d s
  | .getcfg => Sys2Proof.Machine.execGetcfg s
  | .read len => Sys2Proof.Machine.execRead len s
  | .write len => Sys2Proof.Machine.execWrite len s
  | .flush => Sys2Proof.Machine.execFlush s
  | .rdnb => Sys2Proof.Machine.execRdnb s
  | .wrnb b => Sys2Proof.Machine.execWrnb b s
  | .flnb => Sys2Proof.Machine.execFlnb s
  | .rdrdy => Sys2Proof.Machine.execRdrdy s
  | .wrrdy => Sys2Proof.Machine.execWrrdy s
  | .regrd off => Sys2Proof.Machine.execRegrd off s
  | .regwr off v => Sys2Proof.Machine.execRegwr off v s
  | .rbrRd => Sys2Proof.Machine.execRbrRd s
  | .thrWr wd => Sys2Proof.Machine.execThrWr wd s
  | .dllRd => Sys2Proof.Machine.execDllRd s
  | .dllWr wd => Sys2Proof.Machine.execDllWr wd s
  | .ierRd => Sys2Proof.Machine.execIerRd s
  | .ierWr wd => Sys2Proof.Machine.execIerWr wd s
  | .dlmRd => Sys2Proof.Machine.execDlmRd s
  | .dlmWr wd => Sys2Proof.Machine.execDlmWr wd s
  | .lcrRd => Sys2Proof.Machine.execLcrRd s
  | .lcrWr wd => Sys2Proof.Machine.execLcrWr wd s
  | .lsrRd => Sys2Proof.Machine.execLsrRd s
  | .lsrWr wd => Sys2Proof.Machine.execLsrWr wd s

end Sys2Proof.Machine
end

