-- ==== Sys2Proof/Machine/Line.lean ====
section
/-! DEFINITION. LINE, the line-side engine (spec/45_line_side.md R92 to R96): an environment agent that changes
RXQ, TXQ, TSR, WIRE and the error flags only. -/

namespace Sys2Proof.Machine

/-- Whether LINE may take a step: `tx_load` needs a held byte and an idle shift register (R94), `tx_done` a busy
one (R95), `line_error(S)` a non-empty set (R96); `rx_deliver` is always enabled (R93). -/
def lineEnabled (l : LineStep) (r : Regs) : Bool :=
  match l with
  | .rxDeliver _ => true
  | .txLoad => !r.txq.isEmpty && r.tsr.isNone
  | .txDone => r.tsr.isSome
  | .lineError pe fe bi b7 => pe || fe || bi || b7

/-- `rx_deliver(b)` (R93): into RXQ, or an overrun, which sets OE and keeps the older or the newer last byte. -/
def rxDeliver (b : Byte) (s : State) : State :=
  if s.regs.rxq.length < s.params.rxDepth then
    { s with regs := { s.regs with rxq := s.regs.rxq ++ [b] } }
  else
    { s with
      regs := { s.regs with
        oe := true
        rxq := if Config.overrunKeeps s.draws then s.regs.rxq else s.regs.rxq.dropLast ++ [b] }
      draws := s.draws + 1 }

/-- `tx_load` (R94). Without a held byte or with a busy shift register it is not enabled, and is no step. -/
def txLoad (s : State) : State :=
  match s.regs.txq, s.regs.tsr with
  | b :: rest, none => { s with regs := { s.regs with tsr := some b, txq := rest } }
  | _, _ => s

/-- `tx_done` (R95). With an idle shift register it is not enabled, and is no step. -/
def txDone (s : State) : State :=
  match s.regs.tsr with
  | some b => { s with regs := { s.regs with wire := s.regs.wire ++ [b], tsr := none } }
  | none => s

/-- `line_error(S)` (R96): each flag of the set rises. -/
def lineError (pe fe bi b7 : Bool) (s : State) : State :=
  { s with
    regs := { s.regs with
      pe := s.regs.pe || pe, fe := s.regs.fe || fe, bi := s.regs.bi || bi, b7 := s.regs.b7 || b7 } }

/-- A step of LINE. A step that is not enabled changes nothing (log 14). -/
def lineStep (l : LineStep) (s : State) : State :=
  match l with
  | .rxDeliver b => rxDeliver b s
  | .txLoad => txLoad s
  | .txDone => txDone s
  | .lineError pe fe bi b7 => lineError pe fe bi b7 s

end Sys2Proof.Machine
end

