-- ==== Sys2Proof/Machine/Agents.lean ====
section
/-! DEFINITION. The moves of the agents (spec/00_scope.md R2, R9): SEQ's step, HOST's presentation of a command,
the platform's reset, an outside master's access, and who moves next; and how a table word is put where the next
step takes it. -/

namespace Sys2Proof.Machine

/-- The command word SEQ works on: the latched one while BUSY (R36), the presented one while IDLE (R99). -/
def State.fetchWord (s : State) : Option Word :=
  match s.seq.phase with
  | .busy => some s.seq.cmd
  | .idle => s.port.map Command.word

/-- One step of SEQ (R9, R22, R99). IDLE with nothing presented, it waits (R113). An illegal word is rejected
(R99, R44). BUSY, the latched word was legal at acceptance; a `cmd` that spells no command has no step (log 10). -/
def seqStep (s : State) : Host.Outcome State Fault Refusal :=
  match s.fetchWord with
  | none => .next s
  | some c =>
    match decodeCommand c with
    | .ok i => exec i s
    | .error _ =>
      match s.seq.phase with
      | .idle => .next s.reject
      | .busy => .fault .noMicroStep

/-- HOST presents a command (R99): only while SEQ is IDLE and nothing is being presented. HOST has no other such move:
R107 excludes the case, and that the move then does nothing is the model's DESIGN CHOICE (log 11). -/
def hostPresent (c : Command) (s : State) : State :=
  match s.seq.phase, s.port with
  | .idle, none => { s with port := some c }
  | _, _ => s

/-- The platform asserts reset (R113). -/
def platformReset (s : State) : State := State.afterReset s.params s.draws s.ext s.agenda s.ticks

/-- An access of a master outside the block (log 8): REGS answers it by the operation its key selects when the address
decodes, else by the undecoded access (R26, R62). One that touches no byte of the block belongs to the platform (R30):
it does not reach REGS, and nothing of the block changes (log 20). -/
def busStep (a : BusAccess) (s : State) : Host.Outcome State Fault Refusal :=
  match slotOffset s.params a with
  | none => .next (if reachesRegs s.params a then undecodedAccess a.we s else s)
  | some off =>
    match decodeKey (busKey s.dlab a.we off) a.wd with
    | .ok i => exec i s
    | .error _ => .next (undecodedAccess a.we s)

/-- Who moves next: the head of the agenda, or the free value when it names nobody (R97; log 1). -/
def State.nextMove (s : State) : Move :=
  match s.agenda with
  | m :: _ => m
  | [] => Config.move s.ticks

/-- The move is taken: it leaves the agenda and is counted. -/
def State.advance (s : State) : State := { s with agenda := s.agenda.tail, ticks := s.ticks + 1 }

/-- One move of one agent. -/
def takeMove (m : Move) (s : State) : Host.Outcome State Fault Refusal :=
  match m with
  | .seq => seqStep s
  | .line l => .next (lineStep l s)
  | .host c => .next (hostPresent c s)
  | .reset => .next (platformReset s)

/-- The outside master's access is taken from the bus. -/
def State.takeAccess (s : State) : State := { s with ext := none }

/-- One atomic step of the machine: an access of an outside master, if one is on the bus, else the next move. -/
def machineStep (s : State) : Host.Outcome State Fault Refusal :=
  match s.ext with
  | some a => busStep a s.takeAccess
  | none => takeMove s.nextMove s.advance

/-- A command word on the command port with SEQ IDLE and SEQ to move, so that the very next step is its
acceptance. A WRITE brings `LEN` payload bytes, all zero. -/
def placeCommand (c : Word) (s : State) : State :=
  let payload := match decodeCommand c with
    | .ok i => List.replicate i.payloadLength 0#8
    | .error _ => []
  { s with
    ext := none
    seq := { s.seq with phase := .idle, pc := none }
    port := some { word := c, payload := payload }
    agenda := .seq :: s.agenda }

/-- LCR with bit 7 set to the key's `DLAB` (R38: `K[4] = LCR.DLAB`). -/
def withDlab (v : Byte) (dlab : Bool) : Byte := (v &&& 0x7F#8) ||| (BitVec.ofBool dlab).setWidth 8 <<< 7

/-- An access on the bus whose key, with `LCR.DLAB` as it asks, is the one given, so that the very next step is REGS's
answer to it. -/
def placeAccess (key : BitVec 5) (wd : Byte) (s : State) : State :=
  { s with
    ext := some (slotAccess s.params (key.extractLsb' 0 3) (key.getLsbD 3) wd)
    regs := { s.regs with lcr := withDlab s.regs.lcr (key.getLsbD 4) } }

/-- The presented form is put where the next step takes it. -/
def placeEncoded (e : Encoded) (s : State) : State :=
  match e with
  | .command c => placeCommand c s
  | .access key wd => placeAccess key wd s

/-- A table word, laid out as `tableLayout` says, put where the next step takes it. -/
def placeTableWord (s : State) (nbits w : Nat) : State :=
  match tableLayout nbits w with
  | some e => placeEncoded e s
  | none => s

end Sys2Proof.Machine
end

