-- ==== Sys2Proof/Machine/Step.lean ====
section
/-! DEFINITION. The step of the machine, and how a word of the opcode table is put where it fetches. -/

namespace Sys2Proof.Machine

/-- One atomic step (spec/00_scope.md R9, spec/60_exceptions.md R103). -/
def step (s : State) : Host.Outcome State Fault Refusal := machineStep s

/-- `s` with the instruction whose table bits are `w` presented to the next step (log 9). -/
def State.withFetchWord (s : State) (nbits w : Nat) : State := placeTableWord s nbits w

end Sys2Proof.Machine
end

