-- ==== Sys2Proof/Safety.lean ====
section
/-! DEFINITION. The terms claims are made in: well-formed states, the facts a poll or an open latch window leaves
for the next access, schedules and runs over them, and the fairness assumption `LINE_FAIR` (spec/45_line_side.md
R97). -/

namespace Sys2Proof.Machine

/-! ### Well-formed states -/

/-- The parameters are in the ranges of R5. -/
def paramsWf (p : Params) : Bool :=
  (p.stride == 1 || p.stride == 2 || p.stride == 4 || p.stride == 8)
    && decide (1 ≤ p.rxDepth) && decide (1 ≤ p.txDepth)

/-- The labels of a command's micro-program, in order (spec/41, spec/42); `restore` is `GETDIV_RESTORE`. Empty for
a bus operation. -/
def labelsOf (restore : Bool) : Instr → List Label
  | .getdiv => [.lcrSave, .latchOpen, .divLow, .divHigh] ++ if restore then [.lcrRestore] else []
  | .setdiv _ => [.lcrSave, .latchOpen, .divLow, .divHigh, .lcrRestore]
  | .getpar => [.parRead]
  | .setpar _ => [.parRead, .parWrite]
  | .getstop => [.stopRead]
  | .setstop _ => [.stopRead, .stopWrite]
  | .getwlen => [.wlenRead]
  | .setwlen _ => [.wlenRead, .wlenWrite]
  | .init h _ _ _ _ =>
    (if h = 1#1 then [.lcrSave, .latchOpen, .divLow, .divHigh, .lcrRestore] else [])
      ++ [.parRead, .parWrite, .stopRead, .stopWrite, .wlenRead, .wlenWrite]
  | .getcfg =>
    [.lcrSave, .latchOpen, .divLow, .divHigh] ++ (if restore then [.lcrRestore] else [])
      ++ [.parRead, .stopRead, .wlenRead]
  | .read _ => [.start, .poll, .data]
  | .write _ => [.start, .poll, .data]
  | .flush => [.poll, .spin]
  | .rdnb => [.poll, .data]
  | .wrnb _ => [.poll, .data]
  | .flnb => [.poll]
  | .rdrdy => [.poll]
  | .wrrdy => [.poll]
  | .regrd _ => [.rawAccess]
  | .regwr _ _ => [.rawAccess]
  | .rbrRd | .thrWr _ | .dllRd | .dllWr _ | .ierRd | .ierWr _ | .dlmRd | .dlmWr _ | .lcrRd | .lcrWr _
  | .lsrRd | .lsrWr _ => []

/-- Inside READ's and WRITE's loop, the slot index is below `LEN`, as many slots are done as the index says, and
READ holds one byte for each (R82, R83, D37). -/
def slotsCounted (i : Instr) (l : Label) (q : Seq) : Bool :=
  match i with
  | .read len =>
    if l = .start then true else decide (q.i < len) && q.cnt == q.i && q.out.length == q.i.toNat
  | .write len => if l = .start then true else decide (q.i < len) && q.cnt == q.i
  | _ => true

/-- SEQ is at a label of the command it latched, with the payload that command carries (R36, R99). -/
def Seq.running (restore : Bool) (q : Seq) (l : Label) : Bool :=
  match decodeCommand q.cmd with
  | .ok i => (labelsOf restore i).contains l && payloadFits i q.payload && slotsCounted i l q
  | .error _ => false

/-- IDLE exactly when `pc` is `none` (R22); while BUSY, nothing is presented and no result is out. -/
def State.seqWf (s : State) : Bool :=
  match s.seq.phase, s.seq.pc with
  | .idle, none => true
  | .busy, some l => s.port.isNone && s.result.isNone && s.seq.running s.params.getdivRestore l
  | _, _ => false

/-- A result on the port has a status code below 3, and when it carries data its value is their number (R45). -/
def State.resultWf (s : State) : Bool :=
  match s.result with
  | none => true
  | some r => r.status != 3#2 && (r.data.isEmpty || r.value == BitVec.ofNat 32 r.data.length)

/-- A well-formed state: parameters in range, queues within their depths (R11), SEQ and the result consistent. -/
def State.wf (s : State) : Bool :=
  paramsWf s.params && decide (s.regs.rxq.length ≤ s.params.rxDepth) && decide (s.regs.txq.length ≤ s.params.txDepth)
    && s.seqWf && s.resultWf

/-- A launch state (R114): well-formed, SEQ IDLE, no fault mark, and no access of an outside master. -/
def State.launch (s : State) : Bool :=
  s.wf && s.seq.phase == .idle && s.regs.faults == FaultMarks.none && s.ext.isNone

/-! ### What a poll promises, and the latch window -/

/-- At a data access, what the poll saw still holds (R33): a received byte for READ and RDNB, an empty TXQ for
WRITE and WRNB. -/
def State.pollHolds (s : State) : Bool :=
  match s.seq.phase, s.seq.pc, decodeCommand s.seq.cmd with
  | .busy, some .data, .ok (.read _) => s.regs.dr
  | .busy, some .data, .ok .rdnb => s.regs.dr
  | .busy, some .data, .ok (.write _) => s.regs.thre
  | .busy, some .data, .ok (.wrnb _) => s.regs.thre
  | _, _, _ => true

/-- The labels between the LCR read and the LCR write of a save-and-restore or of a field update: SEQ.s holds the
value the write back comes from. -/
def Label.holdsSaved : Label → Bool
  | .latchOpen | .divLow | .divHigh | .lcrRestore | .parWrite | .stopWrite | .wlenWrite => true
  | .lcrSave | .parRead | .stopRead | .wlenRead | .rawAccess | .start | .poll | .data | .spin => false

/-- The labels at which SETDIV, GETDIV, INIT and GETCFG hold the latch window open themselves. -/
def Label.inWindow : Label → Bool
  | .divLow | .divHigh | .lcrRestore => true
  | .latchOpen | .parWrite | .stopWrite | .wlenWrite | .lcrSave | .parRead | .stopRead | .wlenRead | .rawAccess
  | .start | .poll | .data | .spin => false

/-- The latch discipline of R117: `DLAB = 0` at every command boundary, and inside a command everywhere but in a
window that the command itself will close. -/
def State.latchClosed (s : State) : Bool :=
  match s.seq.phase, s.seq.pc with
  | .busy, some l => (!l.holdsSaved || !dlabOf s.seq.s) && (l.inWindow || !s.dlab)
  | _, _ => !s.dlab

/-- The latch window is open and stays so (R118, R119): `DLAB = 1`, and so is bit 7 of the value a running command
will write back. -/
def State.latchStuck (s : State) : Bool :=
  match s.seq.phase, s.seq.pc with
  | .busy, some l => (!l.holdsSaved || dlabOf s.seq.s) && s.dlab
  | _, _ => s.dlab

/-- Inside a latch window that a command opened, `DLAB = 1` (R69, R70; no other agent writes LCR, R35). -/
def State.windowOpen (s : State) : Bool :=
  match s.seq.phase, s.seq.pc with
  | .busy, some l => !l.inWindow || s.dlab
  | _, _ => true

/-- SEQ is running `REGWR lcr, v` with `v[7] = b`: the one command that can change DLAB at a command boundary. -/
def State.pokesDlab (s : State) (b : Bool) : Bool :=
  match s.seq.phase, decodeCommand s.seq.cmd with
  | .busy, .ok (.regwr off v) => off == offLcr && dlabOf v == b
  | _, _ => false

/-- SEQ is running `REGWR 0, v`: the one command that writes THR without a poll (R121) when `DLAB = 0`. -/
def State.pokesThr (s : State) : Bool :=
  match s.seq.phase, decodeCommand s.seq.cmd with
  | .busy, .ok (.regwr off _) => off == offA && !s.dlab
  | _, _ => false

/-- The transmit path's contents, oldest first: the bytes on the wire, in the shift register, in TXQ. -/
def Regs.sent (r : Regs) : List Byte := r.wire ++ r.tsr.toList ++ r.txq

/-! ### Schedules and runs -/

/-- The move is SEQ's or LINE's: no command is presented and no reset is asserted. -/
def isSeqOrLine : Move → Bool
  | .seq | .line _ => true
  | .host _ | .reset => false

/-- A schedule of SEQ and LINE alone, in any order (R9, R97). -/
def seqAndLine (ms : List Move) : Bool := ms.all isSeqOrLine

/-- The state with `m` as the next move. -/
def State.schedule (m : Move) (s : State) : State := { s with agenda := m :: s.agenda }

/-- The machine's steps when the moves are taken in the order of the list; `none` when a step stops. -/
def runMoves : List Move → State → Option State
  | [], s => some s
  | m :: ms, s =>
    match step (s.schedule m) with
    | .next t => runMoves ms t
    | .fault _ => none
    | .refused _ => none

/-- The state after `n` moves of an infinite schedule. -/
def trace (sched : Nat → Move) (s : State) : Nat → Option State
  | 0 => some s
  | n + 1 =>
    match trace sched s n with
    | none => none
    | some u =>
      match step (u.schedule (sched n)) with
      | .next t => some t
      | .fault _ => none
      | .refused _ => none

/-- The transmitter holds a byte: `TXQ != []` or `TSR != none`. -/
def Regs.txBusy (r : Regs) : Bool := !r.txq.isEmpty || r.tsr.isSome

/-- The move is a `tx_load` or `tx_done` that LINE can take. -/
def txMoveTaken (m : Move) (r : Regs) : Bool :=
  match m with
  | .line .txLoad => lineEnabled .txLoad r
  | .line .txDone => lineEnabled .txDone r
  | .line (.rxDeliver _) | .line (.lineError _ _ _ _) | .seq | .host _ | .reset => false

/-- `LINE_FAIR` (R97) of the run that a schedule gives: if the transmitter is busy forever from some point, then
`tx_load` or `tx_done` is taken infinitely often. -/
def LineFair (sched : Nat → Move) (s : State) : Prop :=
  (∃ start, ∀ n, start ≤ n → ∃ u, trace sched s n = some u ∧ u.regs.txBusy = true) →
    ∀ after, ∃ n u, after ≤ n ∧ trace sched s n = some u ∧ txMoveTaken (sched n) u.regs = true

/-- SEQ moves infinitely often: FLUSH goes on polling (R84; "the next poll follows", R111). -/
def SeqMovesForever (sched : Nat → Move) : Prop := ∀ after, ∃ n, after ≤ n ∧ sched n = .seq

/-- The SEQ steps after which a command other than FLUSH has returned: its acceptance, and its micro-program's steps,
with two for each of READ's and WRITE's slots (R90 c). -/
def seqStepBound (restore : Bool) (i : Instr) : Nat :=
  match i with
  | .read len => 2 + 2 * len.toNat
  | .write len => 2 + 2 * len.toNat
  | _ => 1 + (labelsOf restore i).length

/-- HOST is presenting `i` with a payload to an IDLE SEQ, and no outside master is on the bus. -/
def State.presents (s : State) (i : Instr) (payload : List Byte) : Prop :=
  s.ext = none ∧ s.seq.phase = .idle ∧ payloadFits i payload = true ∧
    ∃ c, s.port = some c ∧ c.payload = payload ∧ decodeCommand c.word = .ok i

end Sys2Proof.Machine
end

