-- ==== Sys2Proof/Certificates/Slice0/Obligations.lean ====
section
/-! DEFINITION. The statements for the provers, in the spec's order: encodings, bus operations, codec, acceptance,
each command's micro-program, whole commands under LINE's interference, LINE, reset, and the invariants. -/

open Sys2Proof Sys2Proof.Machine

/-! ### Fetching and decoding -/

/-- A step of SEQ runs the instruction its word decodes to: the presented word while IDLE (R99), the latched one
while BUSY (R36). `advance` takes the move from the agenda and counts it. -/
def Obligations.StepRunsDecodedCommand : Prop :=
  ∀ (s : State) (i : Instr), s.ext = none → s.nextMove = .seq →
    (∀ c, s.seq.phase = .idle → s.port = some c → decodeCommand c.word = .ok i → step s = exec i s.advance) ∧
    (s.seq.phase = .busy → decodeCommand s.seq.cmd = .ok i → step s = exec i s.advance)

/-- An access on the bus is answered by the operation its key selects (R38, R39); an access that reaches REGS and selects
none raises `FLT_BAD_ACCESS`, changes nothing else of REGS, and a read returns a draw (R26, R62); one to the platform's
addresses changes nothing of the block (R30). `takeAccess` takes the access from the bus. That an outside master's access
comes before any other move is the model's choice (log 8), and so is when a wide access reaches REGS (log 20). -/
def Obligations.StepAnswersPresentedAccess : Prop :=
  ∀ (s : State) (a : BusAccess), s.ext = some a →
    (∀ off i, slotOffset s.params a = some off → decodeKey (busKey s.dlab a.we off) a.wd = .ok i →
      step s = exec i s.takeAccess) ∧
    (slotOffset s.params a = none → reachesRegs s.params a = false → step s = .next { s with ext := none }) ∧
    ((slotOffset s.params a = none ∧ reachesRegs s.params a = true) ∨
        (∃ off, slotOffset s.params a = some off ∧ (off = 2#3 ∨ off = 4#3 ∨ off = 6#3 ∨ off = 7#3)) →
      step s = .next
        (if a.we then
          { s with ext := none, regs := { s.regs with faults := { s.regs.faults with badAccess := true } } }
        else
          { s with
            ext := none
            regs := { s.regs with faults := { s.regs.faults with badAccess := true } }
            rd := Config.draw s.draws
            draws := s.draws + 1 }))

/-- Register `off` sits at `BASE + off * REG_STRIDE`, in that byte alone; an access of another width selects
nothing, nor does one outside the eight slots (R23, R26, R27); and an access reaches REGS exactly when one of its bytes is
in `BASE .. BASE + 8 * REG_STRIDE - 1` (R30; for a wide access the model's choice, log 20). Addresses do not wrap: the
model's choice (log 19). -/
def Obligations.SlotAddressesDecode : Prop :=
  ∀ (p : Params) (off : BitVec 3) (we : Bool) (wd : Byte), paramsWf p = true →
    slotOffset p { addr := p.base + off.toNat * p.stride, width := 1, we := we, wd := wd } = some off ∧
    (∀ k, 0 < k → k < p.stride →
      slotOffset p { addr := p.base + off.toNat * p.stride + k, width := 1, we := we, wd := wd } = none) ∧
    (∀ addr width, width ≠ 1 → slotOffset p { addr := addr, width := width, we := we, wd := wd } = none) ∧
    (∀ addr, addr < p.base ∨ p.base + 8 * p.stride ≤ addr →
      slotOffset p { addr := addr, width := 1, we := we, wd := wd } = none) ∧
    (∀ addr width, 1 ≤ width →
      (reachesRegs p { addr := addr, width := width, we := we, wd := wd } = true ↔
        ∃ k, k < width ∧ p.base ≤ addr + k ∧ addr + k < p.base + 8 * p.stride))

/-- Decoding an encoded well-formed instruction gives it back, with every operand at every value (R38 to R42). -/
def Obligations.EncodedInstrDecodesToItself : Prop :=
  ∀ (i : Instr) (dlab : Bool), i.wellFormed = true → decode (encode dlab i) = .ok i

/-- No two words spell one command, and no two keys at one DLAB one operation: what decodes, encodes back to the
very bits it was read from (a read's write data, which it does not carry, as 0). -/
def Obligations.DecodedBitsAreTheEncoding : Prop :=
  (∀ (c : Word) (i : Instr) (dlab : Bool), decodeCommand c = .ok i →
    i.isCommand = true ∧ i.wellFormed = true ∧ encode dlab i = .command c) ∧
  (∀ (key : BitVec 5) (wd : Byte) (i : Instr), decodeKey key wd = .ok i →
    i.isCommand = false ∧ encode (key.getLsbD 4) i = .access key (if key.getLsbD 3 then wd else 0#8))

/-- The opcode map of R43 and the illegal words of R44 (a) to (e): at most one row selects a word, and a word is a
command exactly when a row selects it and its parity code or raw offset is one that R44 admits. -/
def Obligations.DecoderFollowsOpcodeMap : Prop :=
  opcodeRows.length = 20 ∧
  (∀ (c : Word) (r r' : OpcodeRow), r ∈ opcodeRows → r' ∈ opcodeRows →
    r.selects c = true → r'.selects c = true → r = r') ∧
  (∀ (c : Word) (i : Instr), decodeCommand c = .ok i → ∃ r ∈ opcodeRows, opcodeRow i = some r ∧ r.selects c = true) ∧
  (∀ c : Word, (∃ i, decodeCommand c = .ok i) ↔
    (∃ r ∈ opcodeRows, r.selects c = true) ∧
    (opcodeOf c = 0x04#8 → (c.extractLsb' 8 3).toNat ≤ 4) ∧
    (opcodeOf c = 0x09#8 → (c.extractLsb' 9 3).toNat ≤ 4) ∧
    (opcodeOf c = 0x20#8 → (c.extractLsb' 8 3).toNat ∈ [0, 1, 3, 5]) ∧
    (opcodeOf c = 0x21#8 → (c.extractLsb' 8 3).toNat ∈ [0, 1, 3]))

/-- R39: REGS selects exactly one operation per key; the table covers all 32 keys. -/
def Obligations.EveryKeySelectsOneOperation : Prop :=
  (∀ wd : Byte,
    decodeKey (busKey false false 0#3) wd = .ok .rbrRd ∧ decodeKey (busKey false true 0#3) wd = .ok (.thrWr wd) ∧
    decodeKey (busKey true false 0#3) wd = .ok .dllRd ∧ decodeKey (busKey true true 0#3) wd = .ok (.dllWr wd) ∧
    decodeKey (busKey false false 1#3) wd = .ok .ierRd ∧ decodeKey (busKey false true 1#3) wd = .ok (.ierWr wd) ∧
    decodeKey (busKey true false 1#3) wd = .ok .dlmRd ∧ decodeKey (busKey true true 1#3) wd = .ok (.dlmWr wd) ∧
    ∀ dlab : Bool,
      decodeKey (busKey dlab false 3#3) wd = .ok .lcrRd ∧ decodeKey (busKey dlab true 3#3) wd = .ok (.lcrWr wd) ∧
      decodeKey (busKey dlab false 5#3) wd = .ok .lsrRd ∧ decodeKey (busKey dlab true 5#3) wd = .ok (.lsrWr wd) ∧
      ∀ (we : Bool) (off : BitVec 3), off = 2#3 ∨ off = 4#3 ∨ off = 6#3 ∨ off = 7#3 →
        decodeKey (busKey dlab we off) wd = .error .undecodedOffset) ∧
  (∀ key : BitVec 5, ∃ dlab we off, key = busKey dlab we off)

/-- A few words and keys written out from spec/30_encoding.md R46 and spec/95_test_vectors.md decode to what they
stand for. -/
def Obligations.SampleWordsDecode : Prop :=
  decodeCommand 0x00ABCD02#32 = .ok (.setdiv 0xABCD#16) ∧
  decodeCommand 0x00000204#32 = .ok (.setpar 2#3) ∧
  decodeCommand 0x00000308#32 = .ok (.setwlen 3#2) ∧
  decodeCommand 0x00016109#32 = .ok (.init 1#1 0#3 0#1 3#2 0x0001#16) ∧
  decodeCommand 0x00000211#32 = .ok (.write 2#16) ∧
  decodeCommand 0x00005A14#32 = .ok (.wrnb 0x5A#8) ∧
  decodeCommand 0x00830321#32 = .ok (.regwr 3#3 0x83#8) ∧
  decodeKey 0b01000#5 0x41#8 = .ok (.thrWr 0x41#8) ∧
  decodeKey 0b10101#5 0x00#8 = .ok .lsrRd

/-! ### Bus operations -/

/-- R50: RBR_RD removes and returns the head of RXQ; on an empty RXQ it returns a draw and changes nothing. -/
def Obligations.RbrReadConsumesHead : Prop :=
  ∀ s : State,
    (∀ b rest, s.regs.rxq = b :: rest →
      exec .rbrRd s = .next { s with rd := b, regs := { s.regs with rxq := rest } }) ∧
    (s.regs.rxq = [] → exec .rbrRd s = .next { s with rd := Config.draw s.draws, draws := s.draws + 1 })

/-- R51: THR_WR appends to TXQ; on a full TXQ it raises `FLT_TX_OVERWRITE` and leaves `TX_DEPTH` drawn bytes. Either
way THRE and TEMT are 0 afterwards, and TSR is not touched. -/
def Obligations.ThrWriteAppendsOrOverwrites : Prop :=
  ∀ (s : State) (wd : Byte),
    (s.regs.txq.length < s.params.txDepth →
      exec (.thrWr wd) s = .next { s with regs := { s.regs with txq := s.regs.txq ++ [wd] } }) ∧
    (s.params.txDepth ≤ s.regs.txq.length →
      ∃ q, q.length = s.params.txDepth ∧ exec (.thrWr wd) s = .next
        { s with
          regs := { s.regs with txq := q, faults := { s.regs.faults with txOverwrite := true } }
          draws := s.draws + s.params.txDepth }) ∧
    (1 ≤ s.params.txDepth → ∀ t, exec (.thrWr wd) s = .next t → t.regs.thre = false ∧ t.regs.temt = false)

/-- R52, R53, R56, R57: DLL and DLM read back and store all eight bits, with their keys, and touch nothing else: no
received byte is consumed, none is queued, IER is not written. -/
def Obligations.DivisorLatchReadsAndWrites : Prop :=
  ∀ (s : State) (wd : Byte),
    decodeKey 0b10000#5 wd = .ok .dllRd ∧ exec .dllRd s = .next { s with rd := s.regs.dll } ∧
    decodeKey 0b11000#5 wd = .ok (.dllWr wd) ∧
      exec (.dllWr wd) s = .next { s with regs := { s.regs with dll := wd } } ∧
    decodeKey 0b10001#5 wd = .ok .dlmRd ∧ exec .dlmRd s = .next { s with rd := s.regs.dlm } ∧
    decodeKey 0b11001#5 wd = .ok (.dlmWr wd) ∧
      exec (.dlmWr wd) s = .next { s with regs := { s.regs with dlm := wd } }

/-- R54, R55: an IER write stores all eight bits, with its key; a read returns the stored bits 3:0, whatever its bits
7:4 are, with its key; neither touches anything else. -/
def Obligations.IerStoresByteReadsLowNibble : Prop :=
  ∀ (s : State) (wd : Byte),
    decodeKey 0b01001#5 wd = .ok (.ierWr wd) ∧ decodeKey 0b00001#5 wd = .ok .ierRd ∧
    exec (.ierWr wd) s = .next { s with regs := { s.regs with ier := wd } } ∧
    ∃ high : BitVec 4, exec .ierRd s =
      .next { s with rd := high ++ s.regs.ier.extractLsb' 0 4, draws := s.draws + 1 }

/-- R58, R59: LCR reads back all eight stored bits and stores any of the 256 values, with their keys at either DLAB,
and touches nothing else; bit 7 of what is written is DLAB for the next access. -/
def Obligations.LcrReadsAndStoresEveryBit : Prop :=
  ∀ (s : State) (wd : Byte),
    (∀ dlab, decodeKey (busKey dlab false 3#3) wd = .ok .lcrRd ∧
      decodeKey (busKey dlab true 3#3) wd = .ok (.lcrWr wd)) ∧
    exec .lcrRd s = .next { s with rd := s.regs.lcr } ∧
    exec (.lcrWr wd) s = .next { s with regs := { s.regs with lcr := wd } } ∧
    ∀ t, exec (.lcrWr wd) s = .next t → t.dlab = wd.getLsbD 7

/-- R60: LSR_RD samples the flags, then clears OE, PE, FE, BI and B7 exactly when `LSR_RD_CLEARS`; DR, THRE and TEMT
do not change. -/
def Obligations.LsrReadSamplesThenClears : Prop :=
  ∀ s : State,
    (s.params.lsrRdClears = true → exec .lsrRd s = .next
      { s with
        rd := s.regs.lsr
        regs := { s.regs with oe := false, pe := false, fe := false, bi := false, b7 := false } }) ∧
    (s.params.lsrRdClears = false → exec .lsrRd s = .next { s with rd := s.regs.lsr })

/-- R61: LSR_WR raises `FLT_RO_WRITE` and changes nothing else. -/
def Obligations.LsrWriteOnlyMarks : Prop :=
  ∀ (s : State) (wd : Byte), exec (.lsrWr wd) s =
    .next { s with regs := { s.regs with faults := { s.regs.faults with roWrite := true } } }

/-- R48, R49: while DLAB = 1 no access reaches RXQ, TXQ or IER, and register A is DLL and B is DLM both ways. -/
def Obligations.LatchWindowHidesDataPath : Prop :=
  ∀ (s : State), s.dlab = true →
    (∀ (we : Bool) (off : BitVec 3) (wd : Byte),
      (busAccess we off wd s).regs.rxq = s.regs.rxq ∧ (busAccess we off wd s).regs.txq = s.regs.txq ∧
      (busAccess we off wd s).regs.ier = s.regs.ier ∧ (busAccess we off wd s).regs.tsr = s.regs.tsr) ∧
    (busRead offA s).rd = s.regs.dll ∧ (busRead offB s).rd = s.regs.dlm ∧
    (∀ v, (busWrite offA v s).regs = { s.regs with dll := v } ∧ (busWrite offB v s).regs = { s.regs with dlm := v })

/-- R14: each bit of LSR is its flag, bit 7 down to bit 0. -/
def Obligations.LsrBitsAreTheFlags : Prop :=
  ∀ r : Regs,
    r.lsr.getLsbD 0 = decide (r.rxq ≠ []) ∧ r.lsr.getLsbD 1 = r.oe ∧ r.lsr.getLsbD 2 = r.pe ∧
    r.lsr.getLsbD 3 = r.fe ∧ r.lsr.getLsbD 4 = r.bi ∧ r.lsr.getLsbD 5 = decide (r.txq = []) ∧
    r.lsr.getLsbD 6 = decide (r.txq = [] ∧ r.tsr = none) ∧ r.lsr.getLsbD 7 = r.b7

/-- R15: in every well-formed state TEMT implies THRE, THRE is 1 exactly when TXQ is empty, and THRE implies that a byte
can be accepted; with a depth above 1, THRE can be 0 while TXQ is not full. -/
def Obligations.TemtImpliesThreImpliesRoom : Prop :=
  (∀ s : State, s.wf = true →
    (s.regs.temt = true → s.regs.thre = true) ∧
    (s.regs.thre = true ↔ s.regs.txq = []) ∧
    (s.regs.thre = true → s.regs.txq.length < s.params.txDepth)) ∧
  (∀ depth, 1 < depth → ∃ s : State, s.wf = true ∧ s.params.txDepth = depth ∧ s.regs.thre = false ∧
    s.regs.txq.length < depth)

/-! ### The codec -/

/-- R67: for each of the five codes and every byte, decoding what `set_par` wrote gives the code back, and bits 7:6 and
2:0 are unchanged. -/
def Obligations.ParityCodecRoundTrip : Prop :=
  ∀ (p : BitVec 3) (v : Byte), p.toNat ≤ 4 → ∃ w, setPar v p = some w ∧ parDec w = p ∧
    w.extractLsb' 6 2 = v.extractLsb' 6 2 ∧ w.extractLsb' 0 3 = v.extractLsb' 0 3

/-- R63, R64: the word-length and stop-bit fields read back what was written, every other bit is kept, every code is
legal, and the code means `n + 5` data bits and the stop bits of R64's table (in half bits). -/
def Obligations.WordLengthAndStopFields : Prop :=
  (∀ (v : Byte) (n : BitVec 2),
    wls v = v.extractLsb' 0 2 ∧ setWls v n = (v &&& 0xFC#8) ||| n.setWidth 8 ∧
    wls (setWls v n) = n ∧ (setWls v n).extractLsb' 2 6 = v.extractLsb' 2 6 ∧
    dataBits n = n.toNat + 5 ∧ (Instr.setwlen n).wellFormed = true) ∧
  (∀ (v : Byte) (k : BitVec 1),
    stb v = v.extractLsb' 2 1 ∧ setStb v k = (v &&& 0xFB#8) ||| (k.setWidth 8 <<< 2) ∧
    stb (setStb v k) = k ∧ (setStb v k).extractLsb' 3 5 = v.extractLsb' 3 5 ∧
    (setStb v k).extractLsb' 0 2 = v.extractLsb' 0 2) ∧
  (∀ n : BitVec 2, stopHalfBits 0#1 n = 2 ∧ (n = 0#2 → stopHalfBits 1#1 n = 3) ∧ (n ≠ 0#2 → stopHalfBits 1#1 n = 4))

/-- R65, R66: what SETPAR writes, from the parity encodings (PEN bit 3, EPS bit 4, SP bit 5): never SP without PEN, no encoding for the reserved
codes, and the decode of all eight combinations of the three flags. -/
def Obligations.ParityTables : Prop :=
  (parEnc 0#3 = some 0x00#8 ∧ parEnc 1#3 = some 0x08#8 ∧ parEnc 2#3 = some 0x18#8 ∧ parEnc 3#3 = some 0x28#8 ∧
    parEnc 4#3 = some 0x38#8 ∧ ∀ p : BitVec 3, 4 < p.toNat → parEnc p = none) ∧
  (∀ (v : Byte) (p : BitVec 3) (e : Byte), parEnc p = some e → setPar v p = some ((v &&& 0xC7#8) ||| e)) ∧
  (∀ (v w : Byte) (p : BitVec 3), setPar v p = some w → w.getLsbD 5 = true → w.getLsbD 3 = true) ∧
  (∀ v : Byte,
    (v.getLsbD 3 = false → parDec v = 0#3) ∧
    (v.getLsbD 3 = true → v.getLsbD 5 = false → v.getLsbD 4 = false → parDec v = 1#3) ∧
    (v.getLsbD 3 = true → v.getLsbD 5 = false → v.getLsbD 4 = true → parDec v = 2#3) ∧
    (v.getLsbD 3 = true → v.getLsbD 5 = true → v.getLsbD 4 = false → parDec v = 3#3) ∧
    (v.getLsbD 3 = true → v.getLsbD 5 = true → v.getLsbD 4 = true → parDec v = 4#3))

/-- R68: a divisor is split into its low byte for DLL and its high byte for DLM and combined little-endian; the two are
inverse. -/
def Obligations.DivisorSplitAndCombineInverse : Prop :=
  (∀ d : Half, divLo d = d.extractLsb' 0 8 ∧ divHi d = d.extractLsb' 8 8 ∧ divOf (divHi d) (divLo d) = d) ∧
  (∀ hi lo : Byte, (divOf hi lo).toNat = 256 * hi.toNat + lo.toNat ∧
    divLo (divOf hi lo) = lo ∧ divHi (divOf hi lo) = hi)

/-! ### Acceptance -/

/-- R99: a legal command with its payload is latched, SEQ is BUSY at the first step of the micro-program, and nothing else
changes. That the port empties and the result port clears is the model's choice (log 11, log 12). -/
def Obligations.LegalCommandStarts : Prop :=
  ∀ (s : State) (i : Instr) (c : Command) (l : Label),
    i.isCommand = true → i.wellFormed = true → payloadFits i c.payload = true →
    s.seq.phase = .idle → s.port = some c → (labelsOf s.params.getdivRestore i).head? = some l →
    exec i s = .next
      { s with
        seq := { s.seq with cmd := c.word, payload := c.payload, phase := .busy, pc := some l }
        port := none
        result := none }

/-- R99, R44: an illegal word, or a payload that does not fit, gets the result `(ILLEGAL, 0, [])` in one step with no bus
access and no other change; and HOST presents a command while SEQ is IDLE. The model's choice (log 11): that the port empties
at the rejection, that presenting is a move of its own which fills an empty port, and that a HOST move while SEQ is BUSY,
which R107 excludes and leaves unmodelled, is a move that changes nothing. -/
def Obligations.IllegalCommandRejected : Prop :=
  (∀ (s : State) (c : Command), s.ext = none → s.nextMove = .seq → s.seq.phase = .idle → s.port = some c →
    (∀ i, decodeCommand c.word = .ok i → payloadFits i c.payload = false) →
    step s = .next
      { s.advance with port := none, result := some { status := 2#2, value := 0#32, data := [] } }) ∧
  (∀ (s : State) (c : Command), s.ext = none → s.nextMove = .host c →
    (s.seq.phase = .busy → step s = .next s.advance) ∧
    (s.seq.phase = .idle → s.port = none → step s = .next { s.advance with port := some c }))

/-! ### The micro-programs, step by step -/

/-- R69: every step of GETDIV. Inside the window DLAB is 1 (`StepKeepsPollAndWindowFacts`). -/
def Obligations.GetdivMicroProgram : Prop :=
  ∀ s : State, s.seq.phase = .busy →
    (s.seq.pc = some .lcrSave → exec .getdiv s = .next
      { s with rd := s.regs.lcr, seq := { s.seq with s := s.regs.lcr, pc := some .latchOpen } }) ∧
    (s.seq.pc = some .latchOpen → exec .getdiv s = .next
      { s with
        regs := { s.regs with lcr := s.seq.s ||| 0x80#8 }
        seq := { s.seq with pc := some .divLow } }) ∧
    (s.seq.pc = some .divLow → s.dlab = true → exec .getdiv s = .next
      { s with rd := s.regs.dll, seq := { s.seq with lo := s.regs.dll, pc := some .divHigh } }) ∧
    (s.seq.pc = some .divHigh → s.dlab = true → s.params.getdivRestore = true → exec .getdiv s = .next
      { s with rd := s.regs.dlm, seq := { s.seq with hi := s.regs.dlm, pc := some .lcrRestore } }) ∧
    (s.seq.pc = some .divHigh → s.dlab = true → s.params.getdivRestore = false → exec .getdiv s = .next
      { s with
        rd := s.regs.dlm
        seq := { s.seq with hi := s.regs.dlm, phase := .idle, pc := none }
        result := some { status := 0#2, value := (s.regs.dlm ++ s.seq.lo).setWidth 32, data := [] } }) ∧
    (s.seq.pc = some .lcrRestore → s.params.getdivRestore = true → exec .getdiv s = .next
      { s with
        regs := { s.regs with lcr := s.seq.s }
        seq := { s.seq with phase := .idle, pc := none }
        result := some { status := 0#2, value := (s.seq.hi ++ s.seq.lo).setWidth 32, data := [] } })

/-- R70: every step of SETDIV. -/
def Obligations.SetdivMicroProgram : Prop :=
  ∀ (s : State) (d : Half), s.seq.phase = .busy →
    (s.seq.pc = some .lcrSave → exec (.setdiv d) s = .next
      { s with rd := s.regs.lcr, seq := { s.seq with s := s.regs.lcr, pc := some .latchOpen } }) ∧
    (s.seq.pc = some .latchOpen → exec (.setdiv d) s = .next
      { s with
        regs := { s.regs with lcr := s.seq.s ||| 0x80#8 }
        seq := { s.seq with pc := some .divLow } }) ∧
    (s.seq.pc = some .divLow → s.dlab = true → exec (.setdiv d) s = .next
      { s with regs := { s.regs with dll := d.extractLsb' 0 8 }, seq := { s.seq with pc := some .divHigh } }) ∧
    (s.seq.pc = some .divHigh → s.dlab = true → exec (.setdiv d) s = .next
      { s with regs := { s.regs with dlm := d.extractLsb' 8 8 }, seq := { s.seq with pc := some .lcrRestore } }) ∧
    (s.seq.pc = some .lcrRestore → exec (.setdiv d) s = .next
      { s with
        regs := { s.regs with lcr := s.seq.s }
        seq := { s.seq with phase := .idle, pc := none }
        result := some { status := 0#2, value := 0#32, data := [] } })

/-- R72, R74, R76: GETPAR, GETSTOP and GETWLEN read LCR once and return the decoded field. -/
def Obligations.FieldGettersReturnField : Prop :=
  ∀ s : State, s.seq.phase = .busy →
    (s.seq.pc = some .parRead → exec .getpar s = .next
      { s with
        rd := s.regs.lcr
        seq := { s.seq with t := s.regs.lcr, phase := .idle, pc := none }
        result := some { status := 0#2, value := (parDec s.regs.lcr).setWidth 32, data := [] } }) ∧
    (s.seq.pc = some .stopRead → exec .getstop s = .next
      { s with
        rd := s.regs.lcr
        seq := { s.seq with t := s.regs.lcr, phase := .idle, pc := none }
        result := some { status := 0#2, value := (s.regs.lcr.extractLsb' 2 1).setWidth 32, data := [] } }) ∧
    (s.seq.pc = some .wlenRead → exec .getwlen s = .next
      { s with
        rd := s.regs.lcr
        seq := { s.seq with t := s.regs.lcr, phase := .idle, pc := none }
        result := some { status := 0#2, value := (s.regs.lcr.extractLsb' 0 2).setWidth 32, data := [] } })

/-- R73, R75, R77: SETPAR, SETSTOP and SETWLEN read LCR into `s`, then write it back with the one field replaced. -/
def Obligations.FieldSettersOverwriteField : Prop :=
  ∀ s : State, s.seq.phase = .busy →
    (∀ p : BitVec 3,
      (s.seq.pc = some .parRead → exec (.setpar p) s = .next
        { s with rd := s.regs.lcr, seq := { s.seq with s := s.regs.lcr, pc := some .parWrite } }) ∧
      (∀ v, s.seq.pc = some .parWrite → setPar s.seq.s p = some v → exec (.setpar p) s = .next
        { s with
          regs := { s.regs with lcr := v }
          seq := { s.seq with phase := .idle, pc := none }
          result := some { status := 0#2, value := 0#32, data := [] } })) ∧
    (∀ k : BitVec 1,
      (s.seq.pc = some .stopRead → exec (.setstop k) s = .next
        { s with rd := s.regs.lcr, seq := { s.seq with s := s.regs.lcr, pc := some .stopWrite } }) ∧
      (s.seq.pc = some .stopWrite → exec (.setstop k) s = .next
        { s with
          regs := { s.regs with lcr := setStb s.seq.s k }
          seq := { s.seq with phase := .idle, pc := none }
          result := some { status := 0#2, value := 0#32, data := [] } })) ∧
    (∀ n : BitVec 2,
      (s.seq.pc = some .wlenRead → exec (.setwlen n) s = .next
        { s with rd := s.regs.lcr, seq := { s.seq with s := s.regs.lcr, pc := some .wlenWrite } }) ∧
      (s.seq.pc = some .wlenWrite → exec (.setwlen n) s = .next
        { s with
          regs := { s.regs with lcr := setWls s.seq.s n }
          seq := { s.seq with phase := .idle, pc := none }
          result := some { status := 0#2, value := 0#32, data := [] } }))

/-- R78: every step of INIT: SETDIV's five when `HASDIV`, then SETPAR's, SETSTOP's and SETWLEN's two each. -/
def Obligations.InitMicroProgram : Prop :=
  ∀ (s : State) (h : BitVec 1) (p : BitVec 3) (k : BitVec 1) (n : BitVec 2) (d : Half), s.seq.phase = .busy →
    (h = 1#1 →
      (s.seq.pc = some .lcrSave → exec (.init h p k n d) s = .next
        { s with rd := s.regs.lcr, seq := { s.seq with s := s.regs.lcr, pc := some .latchOpen } }) ∧
      (s.seq.pc = some .latchOpen → exec (.init h p k n d) s = .next
        { s with
          regs := { s.regs with lcr := s.seq.s ||| 0x80#8 }
          seq := { s.seq with pc := some .divLow } }) ∧
      (s.seq.pc = some .divLow → s.dlab = true → exec (.init h p k n d) s = .next
        { s with regs := { s.regs with dll := d.extractLsb' 0 8 }, seq := { s.seq with pc := some .divHigh } }) ∧
      (s.seq.pc = some .divHigh → s.dlab = true → exec (.init h p k n d) s = .next
        { s with regs := { s.regs with dlm := d.extractLsb' 8 8 }, seq := { s.seq with pc := some .lcrRestore } }) ∧
      (s.seq.pc = some .lcrRestore → exec (.init h p k n d) s = .next
        { s with regs := { s.regs with lcr := s.seq.s }, seq := { s.seq with pc := some .parRead } })) ∧
    (s.seq.pc = some .parRead → exec (.init h p k n d) s = .next
      { s with rd := s.regs.lcr, seq := { s.seq with s := s.regs.lcr, pc := some .parWrite } }) ∧
    (∀ v, s.seq.pc = some .parWrite → setPar s.seq.s p = some v → exec (.init h p k n d) s = .next
      { s with regs := { s.regs with lcr := v }, seq := { s.seq with pc := some .stopRead } }) ∧
    (s.seq.pc = some .stopRead → exec (.init h p k n d) s = .next
      { s with rd := s.regs.lcr, seq := { s.seq with s := s.regs.lcr, pc := some .stopWrite } }) ∧
    (s.seq.pc = some .stopWrite → exec (.init h p k n d) s = .next
      { s with regs := { s.regs with lcr := setStb s.seq.s k }, seq := { s.seq with pc := some .wlenRead } }) ∧
    (s.seq.pc = some .wlenRead → exec (.init h p k n d) s = .next
      { s with rd := s.regs.lcr, seq := { s.seq with s := s.regs.lcr, pc := some .wlenWrite } }) ∧
    (s.seq.pc = some .wlenWrite → exec (.init h p k n d) s = .next
      { s with
        regs := { s.regs with lcr := setWls s.seq.s n }
        seq := { s.seq with phase := .idle, pc := none }
        result := some { status := 0#2, value := 0#32, data := [] } })

/-- R79: every step of GETCFG: GETDIV's accesses, then the three LCR reads, and the packed value. That `p` and `k` are held
in registers between the reads is the model's choice (log 6). -/
def Obligations.GetcfgMicroProgram : Prop :=
  ∀ s : State, s.seq.phase = .busy →
    (s.seq.pc = some .lcrSave → exec .getcfg s = .next
      { s with rd := s.regs.lcr, seq := { s.seq with s := s.regs.lcr, pc := some .latchOpen } }) ∧
    (s.seq.pc = some .latchOpen → exec .getcfg s = .next
      { s with
        regs := { s.regs with lcr := s.seq.s ||| 0x80#8 }
        seq := { s.seq with pc := some .divLow } }) ∧
    (s.seq.pc = some .divLow → s.dlab = true → exec .getcfg s = .next
      { s with rd := s.regs.dll, seq := { s.seq with lo := s.regs.dll, pc := some .divHigh } }) ∧
    (s.seq.pc = some .divHigh → s.dlab = true → exec .getcfg s = .next
      { s with
        rd := s.regs.dlm
        seq := { s.seq with
          hi := s.regs.dlm
          pc := some (if s.params.getdivRestore then .lcrRestore else .parRead) } }) ∧
    (s.seq.pc = some .lcrRestore → s.params.getdivRestore = true → exec .getcfg s = .next
      { s with regs := { s.regs with lcr := s.seq.s }, seq := { s.seq with pc := some .parRead } }) ∧
    (s.seq.pc = some .parRead → exec .getcfg s = .next
      { s with
        rd := s.regs.lcr
        seq := { s.seq with t := s.regs.lcr, p := parDec s.regs.lcr, pc := some .stopRead } }) ∧
    (s.seq.pc = some .stopRead → exec .getcfg s = .next
      { s with
        rd := s.regs.lcr
        seq := { s.seq with t := s.regs.lcr, k := s.regs.lcr.extractLsb' 2 1, pc := some .wlenRead } }) ∧
    (s.seq.pc = some .wlenRead → exec .getcfg s = .next
      { s with
        rd := s.regs.lcr
        seq := { s.seq with t := s.regs.lcr, phase := .idle, pc := none }
        result := some
          { status := 0#2
            value := (s.seq.hi ++ s.seq.lo).setWidth 32 ||| s.seq.p.setWidth 32 <<< 16 ||| s.seq.k.setWidth 32 <<< 19
              ||| (s.regs.lcr.extractLsb' 0 2).setWidth 32 <<< 20
            data := [] } })

/-- R80, R81, R121: REGRD and REGWR make the one access the multiplexer selects, with no status gate, at every offset
each accepts and either DLAB; REGRD returns the byte read. -/
def Obligations.RawAccessReachesSelectedRegister : Prop :=
  ∀ s : State, s.seq.phase = .busy → s.seq.pc = some .rawAccess →
    (∀ off u, regrdOffsetLegal off = true →
      u = (if off = 3#3 then lcrRead s else if off = 5#3 then lsrRead s
        else if off = 0#3 then (if s.dlab then dllRead s else rbrRead s)
        else (if s.dlab then dlmRead s else ierRead s)) →
      exec (.regrd off) s = .next
        { u with
          seq := { s.seq with t := u.rd, phase := .idle, pc := none }
          result := some { status := 0#2, value := u.rd.setWidth 32, data := [] } }) ∧
    (∀ off v u, regwrOffsetLegal off = true →
      u = (if off = 3#3 then lcrWrite v s
        else if off = 0#3 then (if s.dlab then dllWrite v s else thrWrite v s)
        else (if s.dlab then dlmWrite v s else ierWrite v s)) →
      exec (.regwr off v) s = .next
        { u with
          seq := { s.seq with phase := .idle, pc := none }
          result := some { status := 0#2, value := 0#32, data := [] } })

/-- R82: every step of READ. A slot whose poll sees DR = 0 ends the command with the count so far; a data access takes the
byte register A gives and goes on while `i < LEN`. -/
def Obligations.ReadMicroProgram : Prop :=
  ∀ (s : State) (len : Half), s.seq.phase = .busy →
    (s.seq.pc = some .start → len = 0#16 → exec (.read len) s = .next
      { s with
        seq := { s.seq with i := 0#16, cnt := 0#16, out := [], phase := .idle, pc := none }
        result := some { status := 0#2, value := 0#32, data := [] } }) ∧
    (s.seq.pc = some .start → len ≠ 0#16 → exec (.read len) s = .next
      { s with seq := { s.seq with i := 0#16, cnt := 0#16, out := [], pc := some .poll } }) ∧
    (s.seq.pc = some .poll → s.regs.rxq ≠ [] → exec (.read len) s = .next
      { lsrRead s with seq := { s.seq with t := s.regs.lsr, pc := some .data } }) ∧
    (s.seq.pc = some .poll → s.regs.rxq = [] → exec (.read len) s = .next
      { lsrRead s with
        seq := { s.seq with t := s.regs.lsr, phase := .idle, pc := none }
        result := some { status := 0#2, value := s.seq.cnt.setWidth 32, data := s.seq.out } }) ∧
    (∀ u, s.seq.pc = some .data → u = (if s.dlab then dllRead s else rbrRead s) → exec (.read len) s = .next
      (if s.seq.i + 1#16 < len then
        { u with
          seq := { s.seq with
            out := s.seq.out ++ [u.rd], cnt := s.seq.cnt + 1#16, i := s.seq.i + 1#16, pc := some .poll } }
      else
        { u with
          seq := { s.seq with
            out := s.seq.out ++ [u.rd], cnt := s.seq.cnt + 1#16, i := s.seq.i + 1#16, phase := .idle, pc := none }
          result := some
            { status := 0#2, value := (s.seq.cnt + 1#16).setWidth 32, data := s.seq.out ++ [u.rd] } }))

/-- R83: every step of WRITE. A slot whose poll sees THRE = 0 ends the command with the count so far; a data access writes
the slot's payload byte to register A and goes on while `i < LEN`. -/
def Obligations.WriteMicroProgram : Prop :=
  ∀ (s : State) (len : Half), s.seq.phase = .busy →
    (s.seq.pc = some .start → len = 0#16 → exec (.write len) s = .next
      { s with
        seq := { s.seq with i := 0#16, cnt := 0#16, phase := .idle, pc := none }
        result := some { status := 0#2, value := 0#32, data := [] } }) ∧
    (s.seq.pc = some .start → len ≠ 0#16 → exec (.write len) s = .next
      { s with seq := { s.seq with i := 0#16, cnt := 0#16, pc := some .poll } }) ∧
    (s.seq.pc = some .poll → s.regs.txq = [] → exec (.write len) s = .next
      { lsrRead s with seq := { s.seq with t := s.regs.lsr, pc := some .data } }) ∧
    (s.seq.pc = some .poll → s.regs.txq ≠ [] → exec (.write len) s = .next
      { lsrRead s with
        seq := { s.seq with t := s.regs.lsr, phase := .idle, pc := none }
        result := some { status := 0#2, value := s.seq.cnt.setWidth 32, data := [] } }) ∧
    (∀ b u, s.seq.pc = some .data → s.seq.payload[s.seq.i.toNat]? = some b →
      u = (if s.dlab then dllWrite b s else thrWrite b s) → exec (.write len) s = .next
      (if s.seq.i + 1#16 < len then
        { u with
          seq := { s.seq with cnt := s.seq.cnt + 1#16, i := s.seq.i + 1#16, pc := some .poll } }
      else
        { u with
          seq := { s.seq with cnt := s.seq.cnt + 1#16, i := s.seq.i + 1#16, phase := .idle, pc := none }
          result := some { status := 0#2, value := (s.seq.cnt + 1#16).setWidth 32, data := [] } }))

/-- R84, R10, R111: every step of FLUSH. A poll that sees TEMT returns; one that does not is followed by one spin hint, which
changes no state but the position in the micro-program. -/
def Obligations.FlushMicroProgram : Prop :=
  ∀ s : State, s.seq.phase = .busy →
    (s.seq.pc = some .poll → s.regs.txq = [] → s.regs.tsr = none → exec .flush s = .next
      { lsrRead s with
        seq := { s.seq with t := s.regs.lsr, phase := .idle, pc := none }
        result := some { status := 0#2, value := 0#32, data := [] } }) ∧
    (s.seq.pc = some .poll → s.regs.txq ≠ [] ∨ s.regs.tsr ≠ none → exec .flush s = .next
      { lsrRead s with seq := { s.seq with t := s.regs.lsr, pc := some .spin } }) ∧
    (s.seq.pc = some .spin → exec .flush s = .next { s with seq := { s.seq with pc := some .poll } })

/-- R85, R86: RDRDY returns DR and WRRDY returns THRE, each after one poll. -/
def Obligations.ReadinessQueriesReturnFlag : Prop :=
  ∀ s : State, s.seq.phase = .busy → s.seq.pc = some .poll →
    exec .rdrdy s = .next
      { lsrRead s with
        seq := { s.seq with t := s.regs.lsr, phase := .idle, pc := none }
        result := some { status := 0#2, value := if s.regs.rxq = [] then 0#32 else 1#32, data := [] } } ∧
    exec .wrrdy s = .next
      { lsrRead s with
        seq := { s.seq with t := s.regs.lsr, phase := .idle, pc := none }
        result := some { status := 0#2, value := if s.regs.txq = [] then 1#32 else 0#32, data := [] } }

/-- R87, R88, R89: every step of the single-word commands: WOULD_BLOCK when the one poll does not see the flag; else RDNB
returns register A's byte, WRNB writes register A, FLNB returns OK. -/
def Obligations.SingleWordMicroPrograms : Prop :=
  ∀ (s : State) (b : Byte), s.seq.phase = .busy →
    (s.seq.pc = some .poll →
      (s.regs.rxq ≠ [] → exec .rdnb s = .next
        { lsrRead s with seq := { s.seq with t := s.regs.lsr, pc := some .data } }) ∧
      (s.regs.rxq = [] → exec .rdnb s = .next
        { lsrRead s with
          seq := { s.seq with t := s.regs.lsr, phase := .idle, pc := none }
          result := some { status := 1#2, value := 0#32, data := [] } }) ∧
      (s.regs.txq = [] → exec (.wrnb b) s = .next
        { lsrRead s with seq := { s.seq with t := s.regs.lsr, pc := some .data } }) ∧
      (s.regs.txq ≠ [] → exec (.wrnb b) s = .next
        { lsrRead s with
          seq := { s.seq with t := s.regs.lsr, phase := .idle, pc := none }
          result := some { status := 1#2, value := 0#32, data := [] } }) ∧
      exec .flnb s = .next
        { lsrRead s with
          seq := { s.seq with t := s.regs.lsr, phase := .idle, pc := none }
          result := some
            { status := if s.regs.txq = [] ∧ s.regs.tsr = none then 0#2 else 1#2
              value := 0#32
              data := [] } }) ∧
    (s.seq.pc = some .data →
      (∀ u, u = (if s.dlab then dllRead s else rbrRead s) → exec .rdnb s = .next
        { u with
          seq := { s.seq with phase := .idle, pc := none }
          result := some { status := 0#2, value := u.rd.setWidth 32, data := [] } }) ∧
      (∀ u, u = (if s.dlab then dllWrite b s else thrWrite b s) → exec (.wrnb b) s = .next
        { u with
          seq := { s.seq with phase := .idle, pc := none }
          result := some { status := 0#2, value := 0#32, data := [] } }))

/-! ### Whole commands, with LINE stepping between the accesses -/

/-- R71: SETDIV d, then GETDIV, returns `(OK, zext_32(d), [])` for every d, under both values of `GETDIV_RESTORE`, whatever
LCR held before and whatever LINE does in between; the parameter decides only the LCR left behind. -/
def Obligations.SetdivThenGetdivReturnsDivisor : Prop :=
  ∀ (s : State) (d : Half) (ms ms' : List Move), s.presents (.setdiv d) [] →
    seqAndLine ms = true → ms.count .seq = 6 →
    seqAndLine ms' = true → ms'.count .seq = (if s.params.getdivRestore then 6 else 5) →
    ∃ t u, runMoves ms s = some t ∧ t.seq.phase = .idle ∧
      t.result = some { status := 0#2, value := 0#32, data := [] } ∧
      t.regs.dl = d ∧ t.regs.lcr = s.regs.lcr ∧ t.regs.ier = s.regs.ier ∧ t.regs.sent = s.regs.sent ∧
      runMoves (.host { word := 0x00000001#32, payload := [] } :: ms') t = some u ∧ u.seq.phase = .idle ∧
      u.result = some { status := 0#2, value := d.setWidth 32, data := [] } ∧ u.regs.dl = d ∧
      u.regs.lcr = (if s.params.getdivRestore then s.regs.lcr else s.regs.lcr ||| 0x80#8)

/-- R67, R73, R75, R77 with R72, R74, R76: SETPAR then GETPAR, SETSTOP then GETSTOP, SETWLEN then GETWLEN return what was
set, whatever LINE does, and each keeps LCR's other bits, the divisor and IER. -/
def Obligations.FieldCommandsRoundTrip : Prop :=
  ∀ (s : State) (ms ms' : List Move),
    seqAndLine ms = true → ms.count .seq = 3 → seqAndLine ms' = true → ms'.count .seq = 2 →
    (∀ p : BitVec 3, p.toNat ≤ 4 → s.presents (.setpar p) [] →
      ∃ t, runMoves (ms ++ .host { word := 0x00000003#32, payload := [] } :: ms') s = some t ∧ t.seq.phase = .idle ∧
        t.result = some { status := 0#2, value := p.setWidth 32, data := [] } ∧
        t.regs.lcr.extractLsb' 6 2 = s.regs.lcr.extractLsb' 6 2 ∧
        t.regs.lcr.extractLsb' 0 3 = s.regs.lcr.extractLsb' 0 3 ∧ t.regs.dl = s.regs.dl ∧ t.regs.ier = s.regs.ier) ∧
    (∀ k : BitVec 1, s.presents (.setstop k) [] →
      ∃ t, runMoves (ms ++ .host { word := 0x00000005#32, payload := [] } :: ms') s = some t ∧ t.seq.phase = .idle ∧
        t.result = some { status := 0#2, value := k.setWidth 32, data := [] } ∧
        t.regs.lcr.extractLsb' 3 5 = s.regs.lcr.extractLsb' 3 5 ∧
        t.regs.lcr.extractLsb' 0 2 = s.regs.lcr.extractLsb' 0 2 ∧ t.regs.dl = s.regs.dl ∧ t.regs.ier = s.regs.ier) ∧
    (∀ n : BitVec 2, s.presents (.setwlen n) [] →
      ∃ t, runMoves (ms ++ .host { word := 0x00000007#32, payload := [] } :: ms') s = some t ∧ t.seq.phase = .idle ∧
        t.result = some { status := 0#2, value := n.setWidth 32, data := [] } ∧
        t.regs.lcr.extractLsb' 2 6 = s.regs.lcr.extractLsb' 2 6 ∧ t.regs.dl = s.regs.dl ∧ t.regs.ier = s.regs.ier)

/-- R78, R119: after INIT, LCR holds the three fields, with DLAB and BC as before, the divisor is `DIV` when `HASDIV` and
untouched otherwise, and IER, the transmit path's contents and the fault marks are untouched, whatever LINE does. -/
def Obligations.InitAppliesConfiguration : Prop :=
  ∀ (s : State) (h : BitVec 1) (p : BitVec 3) (k : BitVec 1) (n : BitVec 2) (d : Half) (ms : List Move),
    s.presents (.init h p k n d) [] → p.toNat ≤ 4 → seqAndLine ms = true →
    ms.count .seq = (if h = 1#1 then 12 else 7) →
    ∃ t, runMoves ms s = some t ∧ t.seq.phase = .idle ∧
      t.result = some { status := 0#2, value := 0#32, data := [] } ∧
      parDec t.regs.lcr = p ∧ stb t.regs.lcr = k ∧ wls t.regs.lcr = n ∧
      t.regs.lcr.extractLsb' 6 2 = s.regs.lcr.extractLsb' 6 2 ∧
      t.regs.dl = (if h = 1#1 then d else s.regs.dl) ∧ t.regs.ier = s.regs.ier ∧ t.regs.sent = s.regs.sent ∧
      t.regs.faults = s.regs.faults

/-- R79: GETCFG returns `d | p << 16 | k << 19 | n << 20` of the configuration LCR and the latch hold, whatever LINE does,
and leaves LCR as it was, or with DLAB = 1 when `GETDIV_RESTORE` is false. -/
def Obligations.GetcfgReportsConfiguration : Prop :=
  ∀ (s : State) (ms : List Move), s.presents .getcfg [] → seqAndLine ms = true →
    ms.count .seq = (if s.params.getdivRestore then 9 else 8) →
    ∃ t v, runMoves ms s = some t ∧ t.seq.phase = .idle ∧
      t.result = some { status := 0#2, value := v, data := [] } ∧
      v.extractLsb' 0 16 = s.regs.dl ∧ v.extractLsb' 16 3 = parDec s.regs.lcr ∧ v.extractLsb' 19 1 = stb s.regs.lcr ∧
      v.extractLsb' 20 2 = wls s.regs.lcr ∧ v.extractLsb' 22 10 = 0#10 ∧
      t.regs.lcr = (if s.params.getdivRestore then s.regs.lcr else s.regs.lcr ||| 0x80#8) ∧
      t.regs.dl = s.regs.dl ∧ t.regs.ier = s.regs.ier

/-- R90 (a), R82: with DLAB = 0 and LINE quiet, READ returns exactly the bytes removed from RXQ, in order, as many as RXQ
holds up to `LEN`, after one poll more than that when it stops short. -/
def Obligations.ReadReturnsQueuedBytes : Prop :=
  ∀ (s : State) (len : Half) (n : Nat), s.presents (.read len) [] → s.dlab = false →
    n = min len.toNat s.regs.rxq.length →
    ∃ t, runMoves (List.replicate (2 + 2 * n + if n < len.toNat then 1 else 0) .seq) s = some t ∧
      t.seq.phase = .idle ∧
      t.result = some { status := 0#2, value := BitVec.ofNat 32 n, data := s.regs.rxq.take n } ∧
      t.regs.rxq = s.regs.rxq.drop n ∧ t.regs.txq = s.regs.txq ∧ t.regs.tsr = s.regs.tsr ∧
      t.regs.wire = s.regs.wire ∧ t.regs.lcr = s.regs.lcr ∧ t.regs.dl = s.regs.dl ∧ t.regs.ier = s.regs.ier ∧
      t.regs.faults = s.regs.faults

/-- R98, R82 (DOC's property 3): when LINE delivers one byte before each of the first k of N polls, from an empty RXQ, READ N
returns k and those k bytes. -/
def Obligations.ReadCountsReadyPolls : Prop :=
  ∀ (s : State) (len : Half) (bs : List Byte), s.wf = true → s.presents (.read len) [] → s.dlab = false →
    s.regs.rxq = [] → bs.length ≤ len.toNat →
    ∃ t, runMoves ([.seq, .seq] ++ bs.flatMap (fun b => [.line (.rxDeliver b), .seq, .seq])
        ++ if bs.length < len.toNat then [.seq] else []) s = some t ∧
      t.seq.phase = .idle ∧
      t.result = some { status := 0#2, value := BitVec.ofNat 32 bs.length, data := bs } ∧ t.regs.rxq = []

/-- R90 (b), R83: with DLAB = 0, whatever LINE does, WRITE returns after at most `2 * LEN` accesses with a count `n ≤ LEN`, and
has appended exactly the first n payload bytes, in order, to the transmit path; no fault mark is raised. The two SEQ moves
beside the accesses are the acceptance and the model's `start` step (log 13). -/
def Obligations.WriteSendsPayloadPrefix : Prop :=
  ∀ (s : State) (len : Half) (payload : List Byte) (ms : List Move), s.wf = true →
    s.presents (.write len) payload → s.dlab = false → seqAndLine ms = true → 2 + 2 * len.toNat ≤ ms.count .seq →
    ∃ t n, runMoves ms s = some t ∧ t.seq.phase = .idle ∧ n ≤ len.toNat ∧
      t.result = some { status := 0#2, value := BitVec.ofNat 32 n, data := [] } ∧
      t.regs.sent = s.regs.sent ++ payload.take n ∧ t.regs.faults = s.regs.faults ∧ t.regs.dl = s.regs.dl

/-- R98, R83 (DOC's property 4): with `TX_DEPTH = 1` and an idle transmitter, when LINE empties TXQ before each of polls 2 to
k, WRITE N returns k. -/
def Obligations.WriteCountsReadyPolls : Prop :=
  ∀ (s : State) (len : Half) (payload : List Byte) (k : Nat), s.presents (.write len) payload → s.dlab = false →
    s.params.txDepth = 1 → s.regs.txq = [] → s.regs.tsr = none → 1 ≤ k → k ≤ len.toNat →
    ∃ t, runMoves ([.seq, .seq, .seq, .seq]
        ++ (List.replicate (k - 1) [Move.line .txDone, .line .txLoad, .seq, .seq]).flatten
        ++ if k < len.toNat then [.seq] else []) s = some t ∧
      t.seq.phase = .idle ∧ t.result = some { status := 0#2, value := BitVec.ofNat 32 k, data := [] } ∧
      t.regs.sent = s.regs.wire ++ payload.take k

/-- R84: when FLUSH returns, whatever LINE did, the transmitter is empty and every byte written before is on the wire. -/
def Obligations.FlushReturnsOnlyWhenDrained : Prop :=
  ∀ (s t : State) (ms : List Move), s.presents .flush [] → seqAndLine ms = true → runMoves ms s = some t →
    t.seq.phase = .idle → t.port = none →
    t.regs.txq = [] ∧ t.regs.tsr = none ∧ t.regs.wire = s.regs.sent ∧
      t.result = some { status := 0#2, value := 0#32, data := [] }

/-- R84 (DOC's property 5): if the transmitter empties only after F polls, FLUSH makes exactly F + 1 polls and F spin hints:
it is still polling after the first F of each, and the next poll returns. -/
def Obligations.FlushPollsOnceMoreThanBusyPolls : Prop :=
  ∀ (s : State) (b : Byte) (f : Nat), s.ext = none → s.seq.phase = .busy → s.seq.pc = some .poll →
    decodeCommand s.seq.cmd = .ok .flush → s.regs.txq = [] → s.regs.tsr = some b →
    (∃ t, runMoves (List.replicate (2 * f) .seq) s = some t ∧ t.seq.phase = .busy ∧ t.seq.pc = some .poll) ∧
    (∃ t, runMoves (List.replicate (2 * f) .seq ++ [.line .txDone, .seq]) s = some t ∧ t.seq.phase = .idle ∧
      t.result = some { status := 0#2, value := 0#32, data := [] } ∧ t.regs.wire = s.regs.wire ++ [b])

/-- R120: if LINE never takes `tx_load` or `tx_done`, FLUSH never returns, however long the run. -/
def Obligations.FlushHangsWhileLineStalls : Prop :=
  ∀ (s : State) (ms : List Move), s.presents .flush [] → s.regs.txBusy = true → seqAndLine ms = true →
    .seq ∈ ms → Move.line .txLoad ∉ ms → Move.line .txDone ∉ ms →
    ∃ t, runMoves ms s = some t ∧ t.seq.phase = .busy ∧ t.result = none ∧ t.regs.txBusy = true

/-- R97, R120: under `LINE_FAIR`, a running FLUSH that goes on polling returns. That `LINE_FAIR` is a premise about the run,
and that SEQ keeps moving, is the model's reading (log 17). -/
def Obligations.FlushReturnsUnderLineFair : Prop :=
  ∀ (s : State) (sched : Nat → Move), s.wf = true → s.ext = none → s.seq.phase = .busy →
    decodeCommand s.seq.cmd = .ok .flush → (∀ n, isSeqOrLine (sched n) = true) →
    SeqMovesForever sched → LineFair sched s →
    ∃ n t, trace sched s n = some t ∧ t.seq.phase = .idle ∧
      t.result = some { status := 0#2, value := 0#32, data := [] }

/-- R116, R82, R83: the latch-window hazard with LINE quiet. With DLAB = 1, READ returns `LEN` copies of DLL and consumes
nothing, and WRITE returns `LEN`, leaves its last byte in DLL, and queues nothing. -/
def Obligations.TransfersInLatchWindowReachDll : Prop :=
  ∀ (s : State) (len : Half), s.dlab = true →
    (s.presents (.read len) [] → s.regs.rxq ≠ [] →
      ∃ t, runMoves (List.replicate (2 + 2 * len.toNat) .seq) s = some t ∧ t.seq.phase = .idle ∧
        t.result = some
          { status := 0#2, value := len.setWidth 32, data := List.replicate len.toNat s.regs.dll } ∧
        t.regs.rxq = s.regs.rxq) ∧
    (∀ payload, s.presents (.write len) payload → s.regs.txq = [] →
      ∃ t, runMoves (List.replicate (2 + 2 * len.toNat) .seq) s = some t ∧ t.seq.phase = .idle ∧
        t.result = some { status := 0#2, value := len.setWidth 32, data := [] } ∧
        t.regs.txq = [] ∧ t.regs.dll = payload.getLastD s.regs.dll)

/-- R90 (c), R45, R100 and the micro-programs' lengths: from a well-formed state every accepted command but FLUSH returns a
result, whatever LINE does, once SEQ has moved as often as its micro-program allows (READ and WRITE have the model's `start`
step among their moves, log 13). The result is OK, or WOULD_BLOCK with value 0 from RDNB, WRNB and FLNB; only READ returns
data. -/
def Obligations.EveryCommandButFlushReturns : Prop :=
  ∀ (s : State) (i : Instr) (payload : List Byte) (ms : List Move), s.wf = true → s.presents i payload →
    i ≠ .flush → seqAndLine ms = true → seqStepBound s.params.getdivRestore i ≤ ms.count .seq →
    ∃ t r, runMoves ms s = some t ∧ t.seq.phase = .idle ∧ t.result = some r ∧
      (r.status = 0#2 ∨
        r.status = 1#2 ∧ r.value = 0#32 ∧ (i = .rdnb ∨ (∃ b, i = .wrnb b) ∨ i = .flnb)) ∧
      (r.data ≠ [] → ∃ len, i = .read len ∧ r.value = BitVec.ofNat 32 r.data.length)

/-! ### LINE -/

/-- R92: LINE changes only RXQ, TXQ, TSR, WIRE and the error flags; it never touches SEQ, LCR, DLL, DLM, IER or the faults,
and what it does does not depend on LCR, DLL or DLM. -/
def Obligations.LineTouchesOnlyItsOwn : Prop :=
  ∀ (l : LineStep) (s : State),
    (∃ rxq txq tsr wire oe pe fe bi b7 draws, lineStep l s =
      { s with
        regs := { s.regs with
          rxq := rxq, txq := txq, tsr := tsr, wire := wire, oe := oe, pe := pe, fe := fe, bi := bi, b7 := b7 }
        draws := draws }) ∧
    (∀ lcr dll dlm, lineStep l { s with regs := { s.regs with lcr := lcr, dll := dll, dlm := dlm } } =
      { lineStep l s with regs := { (lineStep l s).regs with lcr := lcr, dll := dll, dlm := dlm } })

/-- R33: under LINE's steps DR, THRE and TEMT, once 1, stay 1; the transmit path's contents never change, and `len RXQ` never
falls. -/
def Obligations.LineKeepsPolledFlags : Prop :=
  ∀ (l : LineStep) (s : State),
    (s.regs.dr = true → (lineStep l s).regs.dr = true) ∧
    (s.regs.thre = true → (lineStep l s).regs.thre = true) ∧
    (s.regs.temt = true → (lineStep l s).regs.temt = true) ∧
    (lineStep l s).regs.sent = s.regs.sent ∧
    s.regs.rxq.length ≤ (lineStep l s).regs.rxq.length

/-- R93 to R96, each as a step of the machine: delivery and overrun, `tx_load`, `tx_done`, the error flags; a step that is not
enabled changes nothing (the model's reading, log 14). -/
def Obligations.LineStepsActAsGiven : Prop :=
  ∀ (s : State) (l : LineStep), s.ext = none → s.nextMove = .line l →
    ∃ t, step s = .next t ∧ match l with
      | .rxDeliver b =>
        (s.regs.rxq.length < s.params.rxDepth →
          t = { s.advance with regs := { s.regs with rxq := s.regs.rxq ++ [b] } }) ∧
        (s.params.rxDepth ≤ s.regs.rxq.length →
          ∃ q, (q = s.regs.rxq ∨ q = s.regs.rxq.dropLast ++ [b]) ∧
            t = { s.advance with regs := { s.regs with oe := true, rxq := q }, draws := s.draws + 1 })
      | .txLoad =>
        (∀ b rest, s.regs.txq = b :: rest → s.regs.tsr = none →
          t = { s.advance with regs := { s.regs with tsr := some b, txq := rest } }) ∧
        (s.regs.txq = [] ∨ s.regs.tsr ≠ none → t = s.advance)
      | .txDone =>
        (∀ b, s.regs.tsr = some b →
          t = { s.advance with regs := { s.regs with wire := s.regs.wire ++ [b], tsr := none } }) ∧
        (s.regs.tsr = none → t = s.advance)
      | .lineError pe fe bi b7 =>
        t = { s.advance with
          regs := { s.regs with
            pe := s.regs.pe || pe, fe := s.regs.fe || fe, bi := s.regs.bi || bi, b7 := s.regs.b7 || b7 } }

/-! ### Reset -/

/-- R113: what reset leaves, at the machine's start and at every reset move: LCR, IER and the flags 0, the queues empty, TSR
idle, LSR 0x60, no fault, SEQ IDLE. Parameters stay. The start is well-formed. That the ports are empty is the model's choice
(log 11, log 12), and so are the parameters the start has (log 7) and that a reset keeps the agenda (log 16). -/
def Obligations.ResetLeavesIdleEmptyBlock : Prop :=
  (State.reset.wf = true ∧ State.reset.launch = true ∧ State.reset.pollHolds = true ∧ State.reset.windowOpen = true ∧
    State.reset.latchClosed = true ∧ State.reset.params = Params.default) ∧
  (∀ t : State, (t = State.reset ∨ ∃ s : State, s.ext = none ∧ s.nextMove = .reset ∧ step s = .next t) →
    t.regs.lcr = 0x00#8 ∧ t.regs.ier = 0x00#8 ∧ t.regs.rxq = [] ∧ t.regs.txq = [] ∧ t.regs.tsr = none ∧
    t.regs.oe = false ∧ t.regs.pe = false ∧ t.regs.fe = false ∧ t.regs.bi = false ∧ t.regs.b7 = false ∧
    t.regs.lsr = 0x60#8 ∧ t.regs.wire = [] ∧ t.regs.faults = FaultMarks.none ∧
    t.seq.phase = .idle ∧ t.seq.pc = none ∧ t.seq.payload = [] ∧ t.seq.out = [] ∧ t.port = none ∧ t.result = none) ∧
  (∀ s : State, s.ext = none → s.nextMove = .reset → ∃ t, step s = .next t ∧ t.params = s.params)

/-! ### Invariants every step keeps -/

/-- Every step from a well-formed state answers a next state, which is well-formed: the queues stay within their depths (R11),
SEQ stays at a label of the command it latched (R22, R36), a result has no status code 3 and data only as many as its value
says (R45), and no step is ever stuck. -/
def Obligations.StepFromWellFormedAnswersWellFormed : Prop :=
  ∀ s : State, s.wf = true → ∃ t, step s = .next t ∧ t.wf = true

/-- R33, R35: in the block's own system (no outside master) every step keeps two facts: at a data access what the poll saw still
holds, and inside a window that a command opened DLAB is 1. -/
def Obligations.StepKeepsPollAndWindowFacts : Prop :=
  ∀ s t : State, s.wf = true → s.ext = none → s.pollHolds = true → s.windowOpen = true → step s = .next t →
    t.ext = none ∧ t.pollHolds = true ∧ t.windowOpen = true

/-- R101, R83: in the block's own system the only fault a step can raise is `FLT_TX_OVERWRITE`, and only when SEQ runs
`REGWR 0, v` with DLAB = 0 and TXQ full. -/
def Obligations.OnlyRawWriteRaisesFault : Prop :=
  ∀ s t : State, s.wf = true → s.ext = none → s.pollHolds = true → s.windowOpen = true → s.nextMove ≠ .reset →
    step s = .next t →
    t.regs.faults = s.regs.faults ∨
    (s.pokesThr = true ∧ s.regs.txq.length = s.params.txDepth ∧
      t.regs.faults = { s.regs.faults with txOverwrite := true })

/-- R102, R5: no step but a reset removes a fault code, whoever moves and whatever is on the bus; and no step at all changes
the parameters. -/
def Obligations.FaultsStickyParamsFixed : Prop :=
  ∀ s t : State, step s = .next t →
    t.params = s.params ∧
    (s.ext ≠ none ∨ s.nextMove ≠ .reset → ∀ c, s.regs.faults.has c = true → t.regs.faults.has c = true)

/-- R117: with `GETDIV_RESTORE`, the latch discipline (DLAB = 0 at every command boundary) is kept by every step of the block's
own system but that of `REGWR lcr, v` with `v[7] = 1`. -/
def Obligations.LatchStaysClosed : Prop :=
  ∀ s t : State, s.wf = true → s.ext = none → s.params.getdivRestore = true → s.latchClosed = true →
    s.pokesDlab true = false → step s = .next t → t.latchClosed = true

/-- R118, R119: once DLAB is 1 at a command boundary, no configuration command, INIT and SETDIV among them, clears it: only
`REGWR lcr, v` with `v[7] = 0`, or reset, does. -/
def Obligations.LatchStaysOpenUntilRawWrite : Prop :=
  ∀ s t : State, s.wf = true → s.ext = none → s.latchStuck = true → s.pokesDlab false = false →
    s.nextMove ≠ .reset → step s = .next t → t.latchStuck = true
end

