-- ==== Sys2Proof/Laws/State.lean ====
section
/-! SUPPORT. What each named update of the state does to each field: one lemma per field per update, so that no
later proof unfolds one. -/

namespace Sys2Proof.Machine

variable (s : State)

/-! ### The codes of R45 -/

@[simp] theorem Status.code_ok : Status.ok.code = 0#2 := rfl
@[simp] theorem Status.code_wouldBlock : Status.wouldBlock.code = 1#2 := rfl
@[simp] theorem Status.code_illegal : Status.illegal.code = 2#2 := rfl

/-- Code 3 is never produced. -/
theorem Status.code_ne_three (st : Status) : st.code ≠ 3#2 := by cases st <;> decide

/-! ### `State.raise` -/

@[simp] theorem State.raise_params (c : FaultCode) : (s.raise c).params = s.params := rfl
@[simp] theorem State.raise_regs (c : FaultCode) : (s.raise c).regs = { s.regs with faults := s.regs.faults.add c } :=
    rfl
@[simp] theorem State.raise_seq (c : FaultCode) : (s.raise c).seq = s.seq := rfl
@[simp] theorem State.raise_port (c : FaultCode) : (s.raise c).port = s.port := rfl
@[simp] theorem State.raise_result (c : FaultCode) : (s.raise c).result = s.result := rfl
@[simp] theorem State.raise_rd (c : FaultCode) : (s.raise c).rd = s.rd := rfl
@[simp] theorem State.raise_ext (c : FaultCode) : (s.raise c).ext = s.ext := rfl
@[simp] theorem State.raise_agenda (c : FaultCode) : (s.raise c).agenda = s.agenda := rfl
@[simp] theorem State.raise_ticks (c : FaultCode) : (s.raise c).ticks = s.ticks := rfl
@[simp] theorem State.raise_draws (c : FaultCode) : (s.raise c).draws = s.draws := rfl

/-! ### `State.readDraw` -/

@[simp] theorem State.readDraw_params : (s.readDraw).params = s.params := rfl
@[simp] theorem State.readDraw_regs : (s.readDraw).regs = s.regs := rfl
@[simp] theorem State.readDraw_seq : (s.readDraw).seq = s.seq := rfl
@[simp] theorem State.readDraw_port : (s.readDraw).port = s.port := rfl
@[simp] theorem State.readDraw_result : (s.readDraw).result = s.result := rfl
@[simp] theorem State.readDraw_rd : (s.readDraw).rd = Config.draw s.draws := rfl
@[simp] theorem State.readDraw_ext : (s.readDraw).ext = s.ext := rfl
@[simp] theorem State.readDraw_agenda : (s.readDraw).agenda = s.agenda := rfl
@[simp] theorem State.readDraw_ticks : (s.readDraw).ticks = s.ticks := rfl
@[simp] theorem State.readDraw_draws : (s.readDraw).draws = s.draws + 1 := rfl

/-! ### `State.readByte` -/

@[simp] theorem State.readByte_params (v : Byte) : (s.readByte v).params = s.params := rfl
@[simp] theorem State.readByte_regs (v : Byte) : (s.readByte v).regs = s.regs := rfl
@[simp] theorem State.readByte_seq (v : Byte) : (s.readByte v).seq = s.seq := rfl
@[simp] theorem State.readByte_port (v : Byte) : (s.readByte v).port = s.port := rfl
@[simp] theorem State.readByte_result (v : Byte) : (s.readByte v).result = s.result := rfl
@[simp] theorem State.readByte_rd (v : Byte) : (s.readByte v).rd = v := rfl
@[simp] theorem State.readByte_ext (v : Byte) : (s.readByte v).ext = s.ext := rfl
@[simp] theorem State.readByte_agenda (v : Byte) : (s.readByte v).agenda = s.agenda := rfl
@[simp] theorem State.readByte_ticks (v : Byte) : (s.readByte v).ticks = s.ticks := rfl
@[simp] theorem State.readByte_draws (v : Byte) : (s.readByte v).draws = s.draws := rfl

/-! ### `State.goto` -/

@[simp] theorem State.goto_params (l : Label) : (s.goto l).params = s.params := rfl
@[simp] theorem State.goto_regs (l : Label) : (s.goto l).regs = s.regs := rfl
@[simp] theorem State.goto_seq (l : Label) : (s.goto l).seq = { s.seq with pc := some l } := rfl
@[simp] theorem State.goto_port (l : Label) : (s.goto l).port = s.port := rfl
@[simp] theorem State.goto_result (l : Label) : (s.goto l).result = s.result := rfl
@[simp] theorem State.goto_rd (l : Label) : (s.goto l).rd = s.rd := rfl
@[simp] theorem State.goto_ext (l : Label) : (s.goto l).ext = s.ext := rfl
@[simp] theorem State.goto_agenda (l : Label) : (s.goto l).agenda = s.agenda := rfl
@[simp] theorem State.goto_ticks (l : Label) : (s.goto l).ticks = s.ticks := rfl
@[simp] theorem State.goto_draws (l : Label) : (s.goto l).draws = s.draws := rfl

/-! ### `State.ret` -/

@[simp] theorem State.ret_params (st : Status) (v : Word) (d : List Byte) : (s.ret st v d).params = s.params :=
    rfl
@[simp] theorem State.ret_regs (st : Status) (v : Word) (d : List Byte) : (s.ret st v d).regs = s.regs := rfl
@[simp] theorem State.ret_seq (st : Status) (v : Word) (d : List Byte) :
    (s.ret st v d).seq = { s.seq with phase := .idle, pc := none } := rfl
@[simp] theorem State.ret_port (st : Status) (v : Word) (d : List Byte) : (s.ret st v d).port = s.port := rfl
@[simp] theorem State.ret_result (st : Status) (v : Word) (d : List Byte) :
    (s.ret st v d).result = some { status := st.code, value := v, data := d } := rfl
@[simp] theorem State.ret_rd (st : Status) (v : Word) (d : List Byte) : (s.ret st v d).rd = s.rd := rfl
@[simp] theorem State.ret_ext (st : Status) (v : Word) (d : List Byte) : (s.ret st v d).ext = s.ext := rfl
@[simp] theorem State.ret_agenda (st : Status) (v : Word) (d : List Byte) : (s.ret st v d).agenda = s.agenda :=
    rfl
@[simp] theorem State.ret_ticks (st : Status) (v : Word) (d : List Byte) : (s.ret st v d).ticks = s.ticks :=
    rfl
@[simp] theorem State.ret_draws (st : Status) (v : Word) (d : List Byte) : (s.ret st v d).draws = s.draws :=
    rfl

/-! ### `State.reject` -/

@[simp] theorem State.reject_params : (s.reject).params = s.params := rfl
@[simp] theorem State.reject_regs : (s.reject).regs = s.regs := rfl
@[simp] theorem State.reject_seq : (s.reject).seq = s.seq := rfl
@[simp] theorem State.reject_port : (s.reject).port = none := rfl
@[simp] theorem State.reject_result : (s.reject).result = some { status := 2#2, value := 0#32, data := [] } := rfl
@[simp] theorem State.reject_rd : (s.reject).rd = s.rd := rfl
@[simp] theorem State.reject_ext : (s.reject).ext = s.ext := rfl
@[simp] theorem State.reject_agenda : (s.reject).agenda = s.agenda := rfl
@[simp] theorem State.reject_ticks : (s.reject).ticks = s.ticks := rfl
@[simp] theorem State.reject_draws : (s.reject).draws = s.draws := rfl

/-! ### `State.begin` -/

@[simp] theorem State.begin_params (c : Command) (l : Label) : (s.begin c l).params = s.params := rfl
@[simp] theorem State.begin_regs (c : Command) (l : Label) : (s.begin c l).regs = s.regs := rfl
@[simp] theorem State.begin_seq (c : Command) (l : Label) :
    (s.begin c l).seq = { s.seq with cmd := c.word, payload := c.payload, phase := .busy, pc := some l } := rfl
@[simp] theorem State.begin_port (c : Command) (l : Label) : (s.begin c l).port = none := rfl
@[simp] theorem State.begin_result (c : Command) (l : Label) : (s.begin c l).result = none := rfl
@[simp] theorem State.begin_rd (c : Command) (l : Label) : (s.begin c l).rd = s.rd := rfl
@[simp] theorem State.begin_ext (c : Command) (l : Label) : (s.begin c l).ext = s.ext := rfl
@[simp] theorem State.begin_agenda (c : Command) (l : Label) : (s.begin c l).agenda = s.agenda := rfl
@[simp] theorem State.begin_ticks (c : Command) (l : Label) : (s.begin c l).ticks = s.ticks := rfl
@[simp] theorem State.begin_draws (c : Command) (l : Label) : (s.begin c l).draws = s.draws := rfl

/-! ### `State.advance` -/

@[simp] theorem State.advance_params : (s.advance).params = s.params := rfl
@[simp] theorem State.advance_regs : (s.advance).regs = s.regs := rfl
@[simp] theorem State.advance_seq : (s.advance).seq = s.seq := rfl
@[simp] theorem State.advance_port : (s.advance).port = s.port := rfl
@[simp] theorem State.advance_result : (s.advance).result = s.result := rfl
@[simp] theorem State.advance_rd : (s.advance).rd = s.rd := rfl
@[simp] theorem State.advance_ext : (s.advance).ext = s.ext := rfl
@[simp] theorem State.advance_agenda : (s.advance).agenda = s.agenda.tail := rfl
@[simp] theorem State.advance_ticks : (s.advance).ticks = s.ticks + 1 := rfl
@[simp] theorem State.advance_draws : (s.advance).draws = s.draws := rfl

/-! ### `State.takeAccess` -/

@[simp] theorem State.takeAccess_params : (s.takeAccess).params = s.params := rfl
@[simp] theorem State.takeAccess_regs : (s.takeAccess).regs = s.regs := rfl
@[simp] theorem State.takeAccess_seq : (s.takeAccess).seq = s.seq := rfl
@[simp] theorem State.takeAccess_port : (s.takeAccess).port = s.port := rfl
@[simp] theorem State.takeAccess_result : (s.takeAccess).result = s.result := rfl
@[simp] theorem State.takeAccess_rd : (s.takeAccess).rd = s.rd := rfl
@[simp] theorem State.takeAccess_ext : (s.takeAccess).ext = none := rfl
@[simp] theorem State.takeAccess_agenda : (s.takeAccess).agenda = s.agenda := rfl
@[simp] theorem State.takeAccess_ticks : (s.takeAccess).ticks = s.ticks := rfl
@[simp] theorem State.takeAccess_draws : (s.takeAccess).draws = s.draws := rfl

/-! ### `State.schedule` -/

@[simp] theorem State.schedule_params (m : Move) : (s.schedule m).params = s.params := rfl
@[simp] theorem State.schedule_regs (m : Move) : (s.schedule m).regs = s.regs := rfl
@[simp] theorem State.schedule_seq (m : Move) : (s.schedule m).seq = s.seq := rfl
@[simp] theorem State.schedule_port (m : Move) : (s.schedule m).port = s.port := rfl
@[simp] theorem State.schedule_result (m : Move) : (s.schedule m).result = s.result := rfl
@[simp] theorem State.schedule_rd (m : Move) : (s.schedule m).rd = s.rd := rfl
@[simp] theorem State.schedule_ext (m : Move) : (s.schedule m).ext = s.ext := rfl
@[simp] theorem State.schedule_agenda (m : Move) : (s.schedule m).agenda = m :: s.agenda := rfl
@[simp] theorem State.schedule_ticks (m : Move) : (s.schedule m).ticks = s.ticks := rfl
@[simp] theorem State.schedule_draws (m : Move) : (s.schedule m).draws = s.draws := rfl

end Sys2Proof.Machine
end

