-- ==== Sys2Proof/Laws/Ops.lean ====
section
/-! SUPPORT. One lemma for each shared operation, saying once what it can do; proofs about instructions cite
these. -/

namespace Sys2Proof.Machine

/-! ### The multiplexer: what each of SEQ's accesses is -/

/-- An access at offset 3 reads LCR whatever DLAB is. -/
theorem busRead_lcr (s : State) : busRead offLcr s = lcrRead s := by
  unfold busRead busAccess busKey; cases s.dlab <;> rfl

/-- A write at offset 3 writes LCR whatever DLAB is. -/
theorem busWrite_lcr (v : Byte) (s : State) : busWrite offLcr v s = lcrWrite v s := by
  unfold busWrite busAccess busKey; cases s.dlab <;> rfl

/-- An access at offset 5 reads LSR whatever DLAB is. -/
theorem busRead_lsr (s : State) : busRead offLsr s = lsrRead s := by
  unfold busRead busAccess busKey; cases s.dlab <;> rfl

/-- Register A is RBR or DLL on a read, by DLAB. -/
theorem busRead_offA (s : State) : busRead offA s = if s.dlab then dllRead s else rbrRead s := by
  unfold busRead busAccess busKey; cases s.dlab <;> rfl

/-- Register A is THR or DLL on a write, by DLAB. -/
theorem busWrite_offA (v : Byte) (s : State) :
    busWrite offA v s = if s.dlab then dllWrite v s else thrWrite v s := by
  unfold busWrite busAccess busKey; cases s.dlab <;> rfl

/-- Register B is IER or DLM on a read, by DLAB. -/
theorem busRead_offB (s : State) : busRead offB s = if s.dlab then dlmRead s else ierRead s := by
  unfold busRead busAccess busKey; cases s.dlab <;> rfl

/-- Register B is IER or DLM on a write, by DLAB. -/
theorem busWrite_offB (v : Byte) (s : State) :
    busWrite offB v s = if s.dlab then dlmWrite v s else ierWrite v s := by
  unfold busWrite busAccess busKey; cases s.dlab <;> rfl

/-! ### The frame of a register operation -/

/-- What no bus access touches: everything but REGS, RD and the draw counter. -/
structure SameOutsideRegs (s t : State) : Prop where
  params : t.params = s.params
  seq : t.seq = s.seq
  port : t.port = s.port
  result : t.result = s.result
  ext : t.ext = s.ext
  agenda : t.agenda = s.agenda
  ticks : t.ticks = s.ticks

theorem SameOutsideRegs.refl (s : State) : SameOutsideRegs s s := ⟨rfl, rfl, rfl, rfl, rfl, rfl, rfl⟩

/-- A register operation changes REGS, RD and the draw counter only. -/
theorem regsApply_sameOutsideRegs (i : Instr) (s : State) : SameOutsideRegs s (regsApply i s) := by
  cases i
  case rbrRd => simp only [regsApply, rbrRead]; split <;> exact ⟨rfl, rfl, rfl, rfl, rfl, rfl, rfl⟩
  case thrWr => simp only [regsApply, thrWrite]; split <;> exact ⟨rfl, rfl, rfl, rfl, rfl, rfl, rfl⟩
  all_goals exact ⟨rfl, rfl, rfl, rfl, rfl, rfl, rfl⟩

/-- An undecoded access changes the fault marks, RD and the draw counter only. -/
theorem undecodedAccess_sameOutsideRegs (we : Bool) (s : State) : SameOutsideRegs s (undecodedAccess we s) := by
  cases we <;> exact ⟨rfl, rfl, rfl, rfl, rfl, rfl, rfl⟩

/-- SEQ's accesses change REGS, RD and the draw counter only. -/
theorem busAccess_sameOutsideRegs (we : Bool) (off : BitVec 3) (wd : Byte) (s : State) :
    SameOutsideRegs s (busAccess we off wd s) := by
  unfold busAccess
  split
  · exact regsApply_sameOutsideRegs _ s
  · exact undecodedAccess_sameOutsideRegs we s

@[simp] theorem busRead_params (off : BitVec 3) (s : State) : (busRead off s).params = s.params :=
  (busAccess_sameOutsideRegs false off 0#8 s).params
@[simp] theorem busRead_seq (off : BitVec 3) (s : State) : (busRead off s).seq = s.seq :=
  (busAccess_sameOutsideRegs false off 0#8 s).seq
@[simp] theorem busRead_port (off : BitVec 3) (s : State) : (busRead off s).port = s.port :=
  (busAccess_sameOutsideRegs false off 0#8 s).port
@[simp] theorem busRead_result (off : BitVec 3) (s : State) : (busRead off s).result = s.result :=
  (busAccess_sameOutsideRegs false off 0#8 s).result
@[simp] theorem busRead_ext (off : BitVec 3) (s : State) : (busRead off s).ext = s.ext :=
  (busAccess_sameOutsideRegs false off 0#8 s).ext
@[simp] theorem busRead_agenda (off : BitVec 3) (s : State) : (busRead off s).agenda = s.agenda :=
  (busAccess_sameOutsideRegs false off 0#8 s).agenda
@[simp] theorem busRead_ticks (off : BitVec 3) (s : State) : (busRead off s).ticks = s.ticks :=
  (busAccess_sameOutsideRegs false off 0#8 s).ticks
@[simp] theorem busWrite_params (off : BitVec 3) (v : Byte) (s : State) : (busWrite off v s).params = s.params :=
  (busAccess_sameOutsideRegs true off v s).params
@[simp] theorem busWrite_seq (off : BitVec 3) (v : Byte) (s : State) : (busWrite off v s).seq = s.seq :=
  (busAccess_sameOutsideRegs true off v s).seq
@[simp] theorem busWrite_port (off : BitVec 3) (v : Byte) (s : State) : (busWrite off v s).port = s.port :=
  (busAccess_sameOutsideRegs true off v s).port
@[simp] theorem busWrite_result (off : BitVec 3) (v : Byte) (s : State) : (busWrite off v s).result = s.result :=
  (busAccess_sameOutsideRegs true off v s).result
@[simp] theorem busWrite_ext (off : BitVec 3) (v : Byte) (s : State) : (busWrite off v s).ext = s.ext :=
  (busAccess_sameOutsideRegs true off v s).ext
@[simp] theorem busWrite_agenda (off : BitVec 3) (v : Byte) (s : State) : (busWrite off v s).agenda = s.agenda :=
  (busAccess_sameOutsideRegs true off v s).agenda
@[simp] theorem busWrite_ticks (off : BitVec 3) (v : Byte) (s : State) : (busWrite off v s).ticks = s.ticks :=
  (busAccess_sameOutsideRegs true off v s).ticks

/-- The queues are within their depths (R11). -/
def QueuesBounded (s : State) : Prop :=
  s.regs.rxq.length ≤ s.params.rxDepth ∧ s.regs.txq.length ≤ s.params.txDepth

/-- A register operation keeps the queues within their depths. -/
theorem regsApply_queuesBounded (i : Instr) (s : State) (h : QueuesBounded s) : QueuesBounded (regsApply i s) := by
  obtain ⟨hr, ht⟩ := h
  cases i
  case rbrRd =>
    show QueuesBounded (rbrRead s)
    unfold rbrRead
    split
    · rename_i hq; rw [hq] at hr; exact ⟨Nat.le_of_succ_le hr, ht⟩
    · exact ⟨hr, ht⟩
  case thrWr wd =>
    show QueuesBounded (thrWrite wd s)
    unfold thrWrite
    split
    · refine ⟨hr, ?_⟩
      simp only [List.length_append, List.length_cons, List.length_nil]
      omega
    · exact ⟨hr, by simp [drawnBytes]⟩
  case lsrRd =>
    simp only [QueuesBounded, regsApply, lsrRead]
    split <;> exact ⟨hr, ht⟩
  all_goals exact ⟨hr, ht⟩

/-- So do SEQ's accesses. -/
theorem busAccess_queuesBounded (we : Bool) (off : BitVec 3) (wd : Byte) (s : State) (h : QueuesBounded s) :
    QueuesBounded (busAccess we off wd s) := by
  unfold busAccess
  split
  · exact regsApply_queuesBounded _ s h
  · cases we <;> exact h

/-! ### Acceptance and stepping -/

/-- Acceptance waits, starts or rejects, and nothing else (R99). -/
theorem accept_cases (i : Instr) (first : Label) (s : State) :
    (s.port = none ∧ accept i first s = s) ∨
    (∃ c, s.port = some c ∧ i.wellFormed = true ∧ payloadFits i c.payload = true ∧
      accept i first s = s.begin c first) ∨
    (∃ c, s.port = some c ∧ ¬(i.wellFormed = true ∧ payloadFits i c.payload = true) ∧
      accept i first s = s.reject) := by
  unfold accept
  split
  · exact .inl ⟨‹_›, rfl⟩
  · rename_i c hc
    refine .inr ?_
    split
    · rename_i h
      rw [Bool.and_eq_true] at h
      exact .inl ⟨c, hc, h.1, h.2, rfl⟩
    · rename_i h
      rw [Bool.and_eq_true] at h
      exact .inr ⟨c, hc, h, rfl⟩

/-- While IDLE a step of a command is its acceptance. -/
theorem micro_idle (i : Instr) (first : Label) (body : Label → State → Option State) (s : State)
    (h : s.seq.phase = .idle) : micro i first body s = .next (accept i first s) := by
  simp only [micro, h]

/-- While BUSY a step of a command is its micro-program's step at `pc`. -/
theorem micro_busy {i : Instr} {first l : Label} {body : Label → State → Option State} {s t : State}
    (h : s.seq.phase = .busy) (hl : s.seq.pc = some l) (ht : body l s = some t) :
    micro i first body s = .next t := by
  simp only [micro, h, hl, ht]

/-- A step of a command that answers a next state is the acceptance or the micro-program's step. -/
theorem micro_next {i : Instr} {first : Label} {body : Label → State → Option State} {s t : State}
    (h : micro i first body s = .next t) :
    (s.seq.phase = .idle ∧ t = accept i first s) ∨
    (∃ l, s.seq.phase = .busy ∧ s.seq.pc = some l ∧ body l s = some t) := by
  unfold micro at h
  split at h
  · exact .inl ⟨‹_›, by injection h with h; exact h.symm⟩
  · cases h
  · rename_i l hp hl
    split at h
    · injection h with h
      exact .inr ⟨l, hp, hl, by rw [← h]; assumption⟩
    · cases h

end Sys2Proof.Machine
end

