-- ==== Sys2Proof/Laws/Bus.lean ====
section
/-! SUPPORT. What SEQ's accesses do to LCR, to the polled flags and to the fault marks, and what a polled value shows. -/

namespace Sys2Proof.Machine

/-! ### LCR -/

/-- No read changes LCR. -/
@[simp] theorem busRead_regs_lcr (off : BitVec 3) (s : State) : (busRead off s).regs.lcr = s.regs.lcr := by
  unfold busRead busAccess
  split
  · rename_i i hi
    cases i
    case lcrWr wd =>
      exfalso
      revert hi
      cases s.dlab <;> revert wd off <;> decide
    case rbrRd => simp only [regsApply, rbrRead]; split <;> rfl
    case thrWr => simp only [regsApply, thrWrite]; split <;> rfl
    case lsrRd => simp only [regsApply, lsrRead]; split <;> rfl
    all_goals rfl
  · rfl

/-- A read of LCR returns it. -/
@[simp] theorem busRead_lcr_rd (s : State) : (busRead offLcr s).rd = s.regs.lcr := by rw [busRead_lcr]; rfl

/-- A write to offset 3 is a write of LCR. -/
@[simp] theorem busWrite_lcr_regs (v : Byte) (s : State) : (busWrite offLcr v s).regs = { s.regs with lcr := v } := by
  rw [busWrite_lcr]; rfl

/-- A write to register A leaves LCR. -/
@[simp] theorem busWrite_offA_lcr (v : Byte) (s : State) : (busWrite offA v s).regs.lcr = s.regs.lcr := by
  rw [busWrite_offA]
  split
  · rfl
  · unfold thrWrite
    split <;> rfl

/-- A write to register B leaves LCR. -/
@[simp] theorem busWrite_offB_lcr (v : Byte) (s : State) : (busWrite offB v s).regs.lcr = s.regs.lcr := by
  rw [busWrite_offB]; split <;> rfl

/-- The value that opens the latch window has bit 7 set. -/
@[simp] theorem dlabOf_withLatch (v : Byte) : dlabOf (withLatch v) = true := by revert v; decide

/-- The field writers keep bit 7. -/
@[simp] theorem dlabOf_setStb (v : Byte) (k : BitVec 1) : dlabOf (setStb v k) = dlabOf v := by revert v k; decide
@[simp] theorem dlabOf_setWls (v : Byte) (n : BitVec 2) : dlabOf (setWls v n) = dlabOf v := by revert v n; decide

/-- A legal parity code has an encoding, and writing it keeps bit 7. -/
theorem setPar_legal (v : Byte) (p : BitVec 3) (h : parityLegal p = true) :
    ∃ w, setPar v p = some w ∧ dlabOf w = dlabOf v := by
  have codes : p = 0#3 ∨ p = 1#3 ∨ p = 2#3 ∨ p = 3#3 ∨ p = 4#3 := by revert h; revert p; decide
  rcases codes with rfl | rfl | rfl | rfl | rfl <;> exact ⟨_, rfl, by revert v; decide⟩

/-! ### Polls -/

/-- A poll returns the LSR of the state before it. -/
@[simp] theorem busRead_lsr_rd (s : State) : (busRead offLsr s).rd = s.regs.lsr := by rw [busRead_lsr]; rfl

/-- A poll consumes nothing. -/
@[simp] theorem busRead_lsr_rxq (s : State) : (busRead offLsr s).regs.rxq = s.regs.rxq := by
  rw [busRead_lsr]
  simp only [lsrRead]
  split <;> rfl

/-- A poll sends nothing. -/
@[simp] theorem busRead_lsr_txq (s : State) : (busRead offLsr s).regs.txq = s.regs.txq := by
  rw [busRead_lsr]
  simp only [lsrRead]
  split <;> rfl

/-- Nor does it touch the shift register. -/
@[simp] theorem busRead_lsr_tsr (s : State) : (busRead offLsr s).regs.tsr = s.regs.tsr := by
  rw [busRead_lsr]
  simp only [lsrRead]
  split <;> rfl

/-- The three flags a polled value shows, whatever the other five are. -/
theorem polled_bits (b7 temt thre bi fe pe oe dr : Bool) :
    polledDr (BitVec.ofBool b7 ++ BitVec.ofBool temt ++ BitVec.ofBool thre ++ BitVec.ofBool bi ++ BitVec.ofBool fe
      ++ BitVec.ofBool pe ++ BitVec.ofBool oe ++ BitVec.ofBool dr) = dr ∧
    polledThre (BitVec.ofBool b7 ++ BitVec.ofBool temt ++ BitVec.ofBool thre ++ BitVec.ofBool bi ++ BitVec.ofBool fe
      ++ BitVec.ofBool pe ++ BitVec.ofBool oe ++ BitVec.ofBool dr) = thre ∧
    polledTemt (BitVec.ofBool b7 ++ BitVec.ofBool temt ++ BitVec.ofBool thre ++ BitVec.ofBool bi ++ BitVec.ofBool fe
      ++ BitVec.ofBool pe ++ BitVec.ofBool oe ++ BitVec.ofBool dr) = temt := by
  revert b7 temt thre bi fe pe oe dr
  decide

@[simp] theorem polledDr_lsr (r : Regs) : polledDr r.lsr = r.dr := (polled_bits _ _ _ _ _ _ _ _).1
@[simp] theorem polledThre_lsr (r : Regs) : polledThre r.lsr = r.thre := (polled_bits _ _ _ _ _ _ _ _).2.1
@[simp] theorem polledTemt_lsr (r : Regs) : polledTemt r.lsr = r.temt := (polled_bits _ _ _ _ _ _ _ _).2.2

/-! ### Fault marks -/

/-- No read at an offset that REGRD accepts marks a fault. -/
theorem busRead_faults {off : BitVec 3} (h : regrdOffsetLegal off = true) (s : State) :
    (busRead off s).regs.faults = s.regs.faults := by
  have cases4 : off = offA ∨ off = offB ∨ off = offLcr ∨ off = offLsr := by revert h; revert off; decide
  rcases cases4 with rfl | rfl | rfl | rfl
  · rw [busRead_offA]
    split
    · rfl
    · unfold rbrRead
      split <;> rfl
  · rw [busRead_offB]; split <;> rfl
  · rw [busRead_lcr]; rfl
  · rw [busRead_lsr]
    simp only [lsrRead]
    split <;> rfl

/-- A write to register B marks no fault. -/
@[simp] theorem busWrite_offB_faults (v : Byte) (s : State) : (busWrite offB v s).regs.faults = s.regs.faults := by
  rw [busWrite_offB]; split <;> rfl

/-- A write to register A marks an overwrite exactly when it reaches a full TXQ (R51). -/
theorem busWrite_offA_faults (v : Byte) (s : State) :
    (busWrite offA v s).regs.faults =
      if s.dlab = false ∧ ¬ s.regs.txq.length < s.params.txDepth then { s.regs.faults with txOverwrite := true }
      else s.regs.faults := by
  rw [busWrite_offA]
  cases s.dlab
  · unfold thrWrite
    by_cases h : s.regs.txq.length < s.params.txDepth
    · simp [h]
    · simp only [Bool.false_eq_true, if_false, h, not_false_eq_true, and_self, if_true]
      rfl
  · rfl

end Sys2Proof.Machine
end

