-- ==== Sys2Proof/Laws/Decode.lean ====
section
/-! SUPPORT. What the address decode and the command decoder answer, said once. -/

namespace Sys2Proof

/-- An access that selects a slot is one byte wide, at that slot's address. -/
theorem slotOffset_some {p : Params} {a : BusAccess} {off : BitVec 3} (h : slotOffset p a = some off) :
    a.width = 1 ∧ a.addr = slotAddress p off := by
  unfold slotOffset at h
  split at h
  · rename_i hc
    obtain ⟨hw, hb, hm, hd⟩ := hc
    cases h
    refine ⟨hw, ?_⟩
    have hdiv := Nat.div_add_mod (a.addr - p.base) p.stride
    rw [hm, Nat.mul_comm] at hdiv
    simp only [slotAddress, BitVec.toNat_ofNat, Nat.mod_eq_of_lt (show _ < 2 ^ 3 from hd)]
    omega
  · cases h

/-- An access that selects a slot reaches REGS. -/
theorem reachesRegs_of_slotOffset {p : Params} {a : BusAccess} {off : BitVec 3} (hs : 0 < p.stride)
    (h : slotOffset p a = some off) : reachesRegs p a = true := by
  obtain ⟨hw, ha⟩ := slotOffset_some h
  have hlt : off.toNat * p.stride < 8 * p.stride := Nat.mul_lt_mul_of_pos_right off.isLt hs
  simp only [slotAddress] at ha
  simp only [reachesRegs, hw, Bool.and_eq_true, decide_eq_true_eq, Nat.max_self]
  omega

/-- The check of a word passes exactly the instruction it was given, with its reserved bits clear and legal operands. -/
theorem checkCommand_ok {clear : Bool} {i j : Instr} (h : checkCommand clear i = .ok j) :
    clear = true ∧ i = j ∧ j.wellFormed = true := by
  unfold checkCommand at h
  split at h
  · split at h
    · cases h
      exact ⟨‹_›, rfl, ‹_›⟩
    · cases h
  · cases h

/-- The check passes when it should. -/
theorem checkCommand_of {clear : Bool} {i : Instr} (hc : clear = true) (hw : i.wellFormed = true) :
    checkCommand clear i = .ok i := by
  unfold checkCommand
  rw [if_pos hc, if_pos hw]

/-- A word that decodes is a command with legal operands (R44). -/
theorem decodeCommand_ok {c : Word} {i : Instr} (h : decodeCommand c = .ok i) :
    i.isCommand = true ∧ i.wellFormed = true := by
  unfold decodeCommand at h
  split at h
  case h_21 => cases h
  all_goals
    obtain ⟨_, he, hw⟩ := checkCommand_ok h
    subst he
    exact ⟨rfl, hw⟩

end Sys2Proof
end

