-- ==== Sys2Proof/Laws/Line.lean ====
section
/-! SUPPORT. What the steps of LINE and HOST can do, said once. -/

namespace Sys2Proof.Machine

/-- What LINE never touches: everything but REGS and the draw counter. -/
structure SameOutsideLine (s t : State) : Prop where
  params : t.params = s.params
  seq : t.seq = s.seq
  port : t.port = s.port
  result : t.result = s.result
  rd : t.rd = s.rd
  ext : t.ext = s.ext
  agenda : t.agenda = s.agenda
  ticks : t.ticks = s.ticks

/-- A delivery fills RXQ or overruns it. -/
theorem rxDeliver_cases (b : Byte) (s : State) :
    (s.regs.rxq.length < s.params.rxDepth ∧
      rxDeliver b s = { s with regs := { s.regs with rxq := s.regs.rxq ++ [b] } }) ∨
    (¬ s.regs.rxq.length < s.params.rxDepth ∧ ∃ q, (q = s.regs.rxq ∨ q = s.regs.rxq.dropLast ++ [b]) ∧
      rxDeliver b s = { s with regs := { s.regs with oe := true, rxq := q }, draws := s.draws + 1 }) := by
  unfold rxDeliver
  split
  · exact .inl ⟨‹_›, rfl⟩
  · refine .inr ⟨‹_›, _, ?_, rfl⟩
    split
    · exact .inl rfl
    · exact .inr rfl

/-- `tx_load` moves TXQ's head to an idle shift register, or is no step. -/
theorem txLoad_cases (s : State) :
    (∃ b rest, s.regs.txq = b :: rest ∧ s.regs.tsr = none ∧
      txLoad s = { s with regs := { s.regs with tsr := some b, txq := rest } }) ∨
    (¬(s.regs.txq ≠ [] ∧ s.regs.tsr = none) ∧ txLoad s = s) := by
  unfold txLoad
  split
  · exact .inl ⟨_, _, ‹_›, ‹_›, rfl⟩
  · rename_i h
    refine .inr ⟨fun ⟨hq, ht⟩ => ?_, rfl⟩
    cases hq' : s.regs.txq with
    | nil => exact hq hq'
    | cons b rest => exact h b rest hq' ht

/-- `tx_done` empties a busy shift register onto the wire, or is no step. -/
theorem txDone_cases (s : State) :
    (∃ b, s.regs.tsr = some b ∧
      txDone s = { s with regs := { s.regs with wire := s.regs.wire ++ [b], tsr := none } }) ∨
    (s.regs.tsr = none ∧ txDone s = s) := by
  unfold txDone
  split
  · exact .inl ⟨_, ‹_›, rfl⟩
  · exact .inr ⟨‹_›, rfl⟩

/-- LINE's steps leave everything outside REGS as it was. -/
theorem lineStep_sameOutsideLine (l : LineStep) (s : State) : SameOutsideLine s (lineStep l s) := by
  cases l <;> simp only [lineStep, rxDeliver, txLoad, txDone, lineError] <;> try split
  all_goals exact ⟨rfl, rfl, rfl, rfl, rfl, rfl, rfl, rfl⟩

/-- HOST's move presents the command, or is no move. -/
theorem hostPresent_cases (c : Command) (s : State) :
    (s.seq.phase = .idle ∧ s.port = none ∧ hostPresent c s = { s with port := some c }) ∨
    (¬(s.seq.phase = .idle ∧ s.port = none) ∧ hostPresent c s = s) := by
  unfold hostPresent
  split
  · exact .inl ⟨‹_›, ‹_›, rfl⟩
  · rename_i h
    exact .inr ⟨fun ⟨h1, h2⟩ => h h1 h2, rfl⟩

/-- A step scheduled for a move takes that move, when no outside master is on the bus. -/
theorem step_schedule (m : Move) (s : State) (h : s.ext = none) :
    step (s.schedule m) = takeMove m { s with ticks := s.ticks + 1 } := by
  have hs : (s.schedule m).ext = none := h
  unfold step machineStep
  rw [hs]
  rfl

end Sys2Proof.Machine
end

