-- ==== Sys2Proof/Laws/PerInstr.lean ====
section
/-! SUPPORT. Statements about every instruction, one lemma per constructor. -/

namespace Sys2Proof.Laws.Row

/-- The encoding of an instruction carries the fixed bits of its table row: a command's word is selected by its row
of spec/30_encoding.md R43, and a bus operation's encoding is a key of R39. -/
def Statement (i : Instr) : Prop :=
  ∀ dlab, match opcodeRow i with
    | some r => ∃ w, encode dlab i = .command w ∧ r.selects w = true
    | none => ∃ key wd, encode dlab i = .access key wd

/-- A word that agrees with a row on every masked bit is selected by it. -/
theorem selects_of_bits {r : OpcodeRow} {w : Word}
    (h : ∀ j, j < 32 → (w.getLsbD j && r.mask.getLsbD j) = r.pattern.getLsbD j) : r.selects w = true := by
  unfold OpcodeRow.selects
  rw [beq_iff_eq]
  apply BitVec.eq_of_getLsbD_eq
  intro j hj
  rw [BitVec.getLsbD_and]
  exact h j hj

theorem getdiv : Statement .getdiv := fun _ => ⟨_, rfl, rfl⟩
theorem setdiv (d : Half) : Statement (.setdiv d) := fun _ =>
  ⟨_, rfl, selects_of_bits (by intro j hj; interval_cases j <;> simp)⟩
theorem getpar : Statement .getpar := fun _ => ⟨_, rfl, rfl⟩
theorem setpar (p : BitVec 3) : Statement (.setpar p) := fun _ =>
  ⟨_, rfl, selects_of_bits (by intro j hj; interval_cases j <;> simp)⟩
theorem getstop : Statement .getstop := fun _ => ⟨_, rfl, rfl⟩
theorem setstop (k : BitVec 1) : Statement (.setstop k) := fun _ =>
  ⟨_, rfl, selects_of_bits (by intro j hj; interval_cases j <;> simp)⟩
theorem getwlen : Statement .getwlen := fun _ => ⟨_, rfl, rfl⟩
theorem setwlen (n : BitVec 2) : Statement (.setwlen n) := fun _ =>
  ⟨_, rfl, selects_of_bits (by intro j hj; interval_cases j <;> simp)⟩
theorem init (h : BitVec 1) (p : BitVec 3) (k : BitVec 1) (n : BitVec 2) (d : Half) :
    Statement (.init h p k n d) := fun _ =>
  ⟨_, rfl, selects_of_bits (by intro j hj; interval_cases j <;> simp)⟩
theorem getcfg : Statement .getcfg := fun _ => ⟨_, rfl, rfl⟩
theorem read (len : Half) : Statement (.read len) := fun _ =>
  ⟨_, rfl, selects_of_bits (by intro j hj; interval_cases j <;> simp)⟩
theorem write (len : Half) : Statement (.write len) := fun _ =>
  ⟨_, rfl, selects_of_bits (by intro j hj; interval_cases j <;> simp)⟩
theorem flush : Statement .flush := fun _ => ⟨_, rfl, rfl⟩
theorem rdnb : Statement .rdnb := fun _ => ⟨_, rfl, rfl⟩
theorem wrnb (b : Byte) : Statement (.wrnb b) := fun _ =>
  ⟨_, rfl, selects_of_bits (by intro j hj; interval_cases j <;> simp)⟩
theorem flnb : Statement .flnb := fun _ => ⟨_, rfl, rfl⟩
theorem rdrdy : Statement .rdrdy := fun _ => ⟨_, rfl, rfl⟩
theorem wrrdy : Statement .wrrdy := fun _ => ⟨_, rfl, rfl⟩
theorem regrd (off : BitVec 3) : Statement (.regrd off) := fun _ =>
  ⟨_, rfl, selects_of_bits (by intro j hj; interval_cases j <;> simp)⟩
theorem regwr (off : BitVec 3) (v : Byte) : Statement (.regwr off v) := fun _ =>
  ⟨_, rfl, selects_of_bits (by intro j hj; interval_cases j <;> simp)⟩
theorem rbrRd : Statement .rbrRd := fun _ => ⟨_, _, rfl⟩
theorem thrWr (wd : Byte) : Statement (.thrWr wd) := fun _ => ⟨_, _, rfl⟩
theorem dllRd : Statement .dllRd := fun _ => ⟨_, _, rfl⟩
theorem dllWr (wd : Byte) : Statement (.dllWr wd) := fun _ => ⟨_, _, rfl⟩
theorem ierRd : Statement .ierRd := fun _ => ⟨_, _, rfl⟩
theorem ierWr (wd : Byte) : Statement (.ierWr wd) := fun _ => ⟨_, _, rfl⟩
theorem dlmRd : Statement .dlmRd := fun _ => ⟨_, _, rfl⟩
theorem dlmWr (wd : Byte) : Statement (.dlmWr wd) := fun _ => ⟨_, _, rfl⟩
theorem lcrRd : Statement .lcrRd := fun _ => ⟨_, _, rfl⟩
theorem lcrWr (wd : Byte) : Statement (.lcrWr wd) := fun _ => ⟨_, _, rfl⟩
theorem lsrRd : Statement .lsrRd := fun _ => ⟨_, _, rfl⟩
theorem lsrWr (wd : Byte) : Statement (.lsrWr wd) := fun _ => ⟨_, _, rfl⟩

end Sys2Proof.Laws.Row
end

