-- ==== Sys2Proof/Tests/Slice0.lean ====
section
/-! SUPPORT. Small tests: ill-formed terms refused, words written out from spec/30_encoding.md decoded, one step of each
instruction against spec/95_test_vectors.md, and a witness for every statement that has hypotheses. -/

namespace Sys2Proof.Tests

open Sys2Proof.Machine

/-- The start the vectors use: default parameters, LCR 0x03, queues empty, SEQ IDLE. -/
def quiet : State :=
  { params := Params.default
    regs :=
      { lcr := 0x03#8, dll := 0x01#8, dlm := 0x00#8, ier := 0x00#8, rxq := [], txq := [], tsr := none
        oe := false, pe := false, fe := false, bi := false, b7 := false, wire := [], faults := FaultMarks.none }
    seq :=
      { phase := .idle, cmd := 0#32, payload := [], pc := none, s := 0#8, lo := 0#8, hi := 0#8, t := 0#8
        i := 0#16, cnt := 0#16, out := [], p := 0#3, k := 0#1 }
    port := none, result := none, rd := 0#8, ext := none, agenda := [], ticks := 0, draws := 0 }

/-- `quiet` with LCR `v`. -/
def withLcr (v : Byte) : State := { quiet with regs := { quiet.regs with lcr := v } }

/-- `quiet` with these queues. -/
def withQueues (rxq txq : List Byte) (tsr : Option Byte) : State :=
  { quiet with regs := { quiet.regs with rxq := rxq, txq := txq, tsr := tsr } }

/-- `s` with SEQ at label `l` of the command `w`. -/
def busyAt (w : Word) (l : Label) (s : State) : State :=
  { s with seq := { s.seq with phase := .busy, cmd := w, pc := some l } }

/-- `s` with HOST presenting `w` and a payload. -/
def presenting (w : Word) (payload : List Byte) (s : State) : State :=
  { s with port := some { word := w, payload := payload } }

/-- The step answered a next state with the property. -/
def answers (o : Host.Outcome State Fault Refusal) (p : State → Bool) : Bool :=
  match o with
  | .next t => p t
  | .fault _ => false
  | .refused _ => false

/-- The result port shows `(status, value, data)`, the status as the code of R45. -/
def showsResult (st : BitVec 2) (v : Word) (d : List Byte) (t : State) : Bool :=
  t.result == some { status := st, value := v, data := d }

/-! ### Well-formedness (R44) -/

theorem test_setpar_refuses_code_5 : (Instr.setpar 5#3).wellFormed = false := by decide
theorem test_setpar_refuses_code_7 : (Instr.setpar 7#3).wellFormed = false := by decide
theorem test_init_refuses_code_5 : (Instr.init 0#1 5#3 0#1 0#2 0#16).wellFormed = false := by decide
theorem test_regrd_refuses_offset_2 : (Instr.regrd 2#3).wellFormed = false := by decide
theorem test_regwr_refuses_lsr : (Instr.regwr 5#3 0x00#8).wellFormed = false := by decide
theorem test_write_refuses_short_payload : payloadFits (.write 2#16) [0x41#8] = false := by decide
theorem test_read_refuses_payload : payloadFits (.read 4#16) [0x41#8] = false := by decide

/-! ### Decoding: each constructor from a word written out from R41 to R43, or a key from R38 and R39 -/

theorem test_decode_getdiv : decodeCommand 0b00000000000000000000000000000001#32 = .ok .getdiv := by decide
theorem test_decode_setdiv : decodeCommand 0b00000000101010111100110100000010#32 = .ok (.setdiv 0xABCD#16) := by decide
theorem test_decode_getpar : decodeCommand 0b00000000000000000000000000000011#32 = .ok .getpar := by decide
theorem test_decode_setpar : decodeCommand 0b00000000000000000000010000000100#32 = .ok (.setpar 4#3) := by decide
theorem test_decode_getstop : decodeCommand 0b00000000000000000000000000000101#32 = .ok .getstop := by decide
theorem test_decode_setstop : decodeCommand 0b00000000000000000000000100000110#32 = .ok (.setstop 1#1) := by decide
theorem test_decode_getwlen : decodeCommand 0b00000000000000000000000000000111#32 = .ok .getwlen := by decide
theorem test_decode_setwlen : decodeCommand 0b00000000000000000000001000001000#32 = .ok (.setwlen 2#2) := by decide
/-- V-IN-3: `INIT nodiv, par=even, stop=2, wlen=7`. -/
theorem test_decode_init : decodeCommand 0b00000000000000000101010000001001#32 = .ok (.init 0#1 2#3 1#1 2#2 0#16) := by
  decide
/-- V-IN-6: `INIT div=0x0003, par=none, stop=1, wlen=5`. -/
theorem test_decode_init_div : decodeCommand 0x00030109#32 = .ok (.init 1#1 0#3 0#1 0#2 3#16) := by decide
theorem test_decode_getcfg : decodeCommand 0b00000000000000000000000000001010#32 = .ok .getcfg := by decide
theorem test_decode_read : decodeCommand 0b00000000000000000000010000010000#32 = .ok (.read 4#16) := by decide
theorem test_decode_write : decodeCommand 0b00000000000000000000001000010001#32 = .ok (.write 2#16) := by decide
theorem test_decode_flush : decodeCommand 0b00000000000000000000000000010010#32 = .ok .flush := by decide
theorem test_decode_rdnb : decodeCommand 0b00000000000000000000000000010011#32 = .ok .rdnb := by decide
theorem test_decode_wrnb : decodeCommand 0b00000000000000000101101000010100#32 = .ok (.wrnb 0x5A#8) := by decide
theorem test_decode_flnb : decodeCommand 0b00000000000000000000000000010101#32 = .ok .flnb := by decide
theorem test_decode_rdrdy : decodeCommand 0b00000000000000000000000000010110#32 = .ok .rdrdy := by decide
theorem test_decode_wrrdy : decodeCommand 0b00000000000000000000000000010111#32 = .ok .wrrdy := by decide
theorem test_decode_regrd : decodeCommand 0b00000000000000000000010100100000#32 = .ok (.regrd 5#3) := by decide
theorem test_decode_regwr : decodeCommand 0b00000000100000110000001100100001#32 = .ok (.regwr 3#3 0x83#8) := by decide
theorem test_decode_rbrRd : decodeKey 0b00000#5 0x00#8 = .ok .rbrRd := by decide
theorem test_decode_thrWr : decodeKey 0b01000#5 0x41#8 = .ok (.thrWr 0x41#8) := by decide
theorem test_decode_dllRd : decodeKey 0b10000#5 0x00#8 = .ok .dllRd := by decide
theorem test_decode_dllWr : decodeKey 0b11000#5 0x5A#8 = .ok (.dllWr 0x5A#8) := by decide
theorem test_decode_ierRd : decodeKey 0b00001#5 0x00#8 = .ok .ierRd := by decide
theorem test_decode_ierWr : decodeKey 0b01001#5 0x0F#8 = .ok (.ierWr 0x0F#8) := by decide
theorem test_decode_dlmRd : decodeKey 0b10001#5 0x00#8 = .ok .dlmRd := by decide
theorem test_decode_dlmWr : decodeKey 0b11001#5 0x12#8 = .ok (.dlmWr 0x12#8) := by decide
theorem test_decode_lcrRd : decodeKey 0b10011#5 0x00#8 = .ok .lcrRd := by decide
theorem test_decode_lcrWr : decodeKey 0b01011#5 0x03#8 = .ok (.lcrWr 0x03#8) := by decide
theorem test_decode_lsrRd : decodeKey 0b00101#5 0x00#8 = .ok .lsrRd := by decide
theorem test_decode_lsrWr : decodeKey 0b11101#5 0xFF#8 = .ok (.lsrWr 0xFF#8) := by decide

/-- V-AC-1, V-AC-3: unassigned opcodes. -/
theorem test_decode_unassigned :
    decodeCommand 0x00000000#32 = .error .unassignedOpcode ∧
    decodeCommand 0x0000000B#32 = .error .unassignedOpcode := by decide
/-- V-AC-4, V-AC-9, V-AC-11, V-AC-15, V-AC-18: reserved bits. -/
theorem test_decode_reservedBit :
    decodeCommand 0x00000101#32 = .error .reservedBitSet ∧ decodeCommand 0x00000408#32 = .error .reservedBitSet ∧
    decodeCommand 0x00008009#32 = .error .reservedBitSet ∧ decodeCommand 0x00001021#32 = .error .reservedBitSet ∧
    decodeCommand 0x00FF5A14#32 = .error .reservedBitSet := by decide
/-- V-AC-6, V-AC-10: reserved parity codes. -/
theorem test_decode_reservedParity :
    decodeCommand 0x00000504#32 = .error .reservedParity ∧
    decodeCommand 0x00000A09#32 = .error .reservedParity := by decide
/-- V-AC-13, V-AC-14: offsets REGRD and REGWR refuse. -/
theorem test_decode_refusedOffset :
    decodeCommand 0x00000220#32 = .error .refusedOffset ∧
    decodeCommand 0x00000521#32 = .error .refusedOffset := by decide
/-- V-AC-12: `DIV` is ignored when `HASDIV` is 0, not reserved. -/
theorem test_decode_initNodivKeepsDiv :
    decodeCommand 0x12346009#32 = .ok (.init 0#1 0#3 0#1 3#2 0x1234#16) := by decide

/-! ### Bus operations (spec/95_test_vectors.md 2.1) -/

/-- V-BUS-1. -/
theorem test_rbrRd_takesHead :
    answers (exec .rbrRd (withQueues [0x55#8] [] none)) (fun t => t.rd == 0x55#8 && t.regs.rxq == []) = true := by decide
/-- V-BUS-2: an empty RXQ changes nothing. -/
theorem test_rbrRd_empty :
    answers (exec .rbrRd quiet) (fun t => t.regs == quiet.regs) = true := by decide
/-- V-BUS-3. -/
theorem test_thrWr_appends :
    answers (exec (.thrWr 0x41#8) quiet) (fun t => t.regs.txq == [0x41#8] && t.regs.lsr == 0x00#8) = true := by decide
/-- V-BUS-4: one byte of any value stays. -/
theorem test_thrWr_full :
    answers (exec (.thrWr 0x42#8) (withQueues [] [0x41#8] none))
      (fun t => t.regs.faults.has .txOverwrite && t.regs.txq.length == 1) = true := by decide
/-- V-BUS-5. -/
theorem test_dllRd : answers (exec .dllRd (withLcr 0x83#8)) (fun t => t.rd == 0x01#8) = true := by decide
/-- V-BUS-6. -/
theorem test_dllWr :
    answers (exec (.dllWr 0x5A#8) (withLcr 0x83#8)) (fun t => t.regs.dll == 0x5A#8 && t.regs.txq == []) = true := by decide
/-- V-BUS-7: the low nibble, whatever the high one is. -/
theorem test_ierRd :
    ∃ t, exec .ierRd { quiet with regs := { quiet.regs with ier := 0x05#8 } } = .next t ∧
      t.rd.extractLsb' 0 4 = 0x5#4 := by
  have low : ∀ high : BitVec 4, (high ++ 0x5#4).extractLsb' 0 4 = 0x5#4 := by decide
  exact ⟨_, rfl, low _⟩
/-- V-BUS-8. -/
theorem test_ierWr : answers (exec (.ierWr 0x0F#8) quiet) (fun t => t.regs.ier == 0x0F#8) = true := by decide
/-- V-BUS-9. -/
theorem test_dlmRd :
    answers (exec .dlmRd { quiet with regs := { quiet.regs with dlm := 0xAB#8 } }) (fun t => t.rd == 0xAB#8) = true := by
  decide
/-- V-BUS-10. -/
theorem test_dlmWr :
    answers (exec (.dlmWr 0x12#8) (withLcr 0x83#8)) (fun t => t.regs.dlm == 0x12#8 && t.regs.ier == 0x00#8) = true := by
  decide
/-- V-BUS-11. -/
theorem test_lcrRd : answers (exec .lcrRd (withLcr 0x83#8)) (fun t => t.rd == 0x83#8) = true := by decide
/-- V-BUS-12. -/
theorem test_lcrWr :
    answers (exec (.lcrWr 0x03#8) (withLcr 0x83#8)) (fun t => t.regs.lcr == 0x03#8 && !t.dlab) = true := by decide
/-- V-BUS-13. -/
theorem test_lsrRd_quiet : answers (exec .lsrRd quiet) (fun t => t.rd == 0x60#8) = true := by decide
/-- V-LS-7, V-LS-8: every flag, then the error flags cleared. -/
theorem test_lsrRd_clears :
    answers (exec .lsrRd { quiet with regs := { quiet.regs with
        rxq := [0x31#8], txq := [0x41#8], oe := true, pe := true, fe := true, bi := true, b7 := true } })
      (fun t => t.rd == 0x9F#8 && t.regs.lsr == 0x01#8) = true := by decide
/-- V-BUS-14. -/
theorem test_lsrWr :
    answers (exec (.lsrWr 0xFF#8) quiet) (fun t => t.regs.faults.has .roWrite && t.regs.lsr == 0x60#8) = true := by decide

/-- An access of an outside master on the bus. -/
def onBus (addr width : Nat) (we : Bool) (wd : Byte) (s : State) : State :=
  { s with ext := some { addr := addr, width := width, we := we, wd := wd } }

/-- V-BUS-16, V-BUS-17: offset 7, and a wide access. -/
theorem test_bus_undecoded :
    answers (step (onBus 7 1 true 0x00#8 quiet)) (fun t => t.regs.faults.has .badAccess) = true ∧
    answers (step (onBus 0 2 false 0x00#8 quiet)) (fun t => t.regs.faults.has .badAccess) = true := by decide
/-- R30: an address past the block is the platform's, and no fault mark is raised. -/
theorem test_bus_platform :
    answers (step (onBus 8 1 true 0x00#8 quiet)) (fun t => t == quiet) = true := by decide
/-- V-BUS-18, V-BUS-19: stride 4, between slots and at offset 3. -/
theorem test_bus_stride :
    answers (step (onBus 1 1 false 0#8 { quiet with params := { Params.default with stride := 4 } }))
      (fun t => t.regs.faults.has .badAccess) = true ∧
    answers (step (onBus 12 1 false 0#8 { quiet with params := { Params.default with stride := 4 } }))
      (fun t => t.rd == 0x03#8) = true := by decide

/-! ### Acceptance (2.4) -/

/-- V-AC-16: WRITE with too short a payload is rejected. -/
theorem test_write_rejected :
    answers (exec (.write 2#16) (presenting 0x00000211#32 [0x41#8] quiet))
      (fun t => showsResult 2#2 0#32 [] t && t.seq.phase == .idle) = true := by decide
/-- A legal INIT with a divisor starts at the LCR read of SETDIV (R78). -/
theorem test_init_starts :
    answers (exec (.init 1#1 0#3 0#1 3#2 1#16) (presenting 0x00016109#32 [] quiet))
      (fun t => t.seq.phase == .busy && t.seq.pc == some .lcrSave && t.port == none) = true := by decide
/-- INITDEFAULT starts at the first of its six accesses (V-IN-2). -/
theorem test_init_nodiv_starts :
    answers (exec (.init 0#1 0#3 0#1 3#2 0#16) (presenting 0x00006009#32 [] quiet))
      (fun t => t.seq.pc == some .parRead) = true := by decide

/-! ### Configuration commands (2.5 to 2.8) -/

/-- V-DIV-2: the last access without the restoring write. -/
theorem test_getdiv_returns :
    answers (exec .getdiv (busyAt 0x00000001#32 .divHigh
        { withLcr 0x9B#8 with
          params := { Params.default with getdivRestore := false }
          regs := { (withLcr 0x9B#8).regs with dlm := 0xAB#8 }
          seq := { quiet.seq with lo := 0xCD#8 } }))
      (fun t => showsResult 0#2 0x0000ABCD#32 [] t && t.regs.lcr == 0x9B#8) = true := by decide
/-- V-DIV-1: the window opens with `LCR_WR 0x9B`. -/
theorem test_setdiv_opensLatch :
    answers (exec (.setdiv 0xABCD#16) (busyAt 0x00ABCD02#32 .latchOpen
        { withLcr 0x1B#8 with seq := { quiet.seq with s := 0x1B#8 } }))
      (fun t => t.regs.lcr == 0x9B#8) = true := by decide
/-- V-DIV-1: then `DLL_WR 0xCD`. -/
theorem test_setdiv_writesLow :
    answers (exec (.setdiv 0xABCD#16) (busyAt 0x00ABCD02#32 .divLow (withLcr 0x9B#8)))
      (fun t => t.regs.dll == 0xCD#8 && t.regs.dlm == 0x00#8 && t.regs.txq == []) = true := by decide
/-- V-PAR-8: SP without PEN reads as None. -/
theorem test_getpar_rawPoke :
    answers (exec .getpar (busyAt 0x00000003#32 .parRead (withLcr 0x23#8))) (showsResult 0#2 0#32 []) = true := by decide
/-- V-PAR-5's getter: 0x3B is Low. -/
theorem test_getpar_low :
    answers (exec .getpar (busyAt 0x00000003#32 .parRead (withLcr 0x3B#8))) (showsResult 0#2 4#32 []) = true := by decide
/-- V-PAR-7: DLAB is kept. -/
theorem test_setpar_keepsDlab :
    answers (exec (.setpar 1#3) (busyAt 0x00000104#32 .parWrite
        { withLcr 0x83#8 with seq := { quiet.seq with s := 0x83#8 } }))
      (fun t => t.regs.lcr == 0x8B#8) = true := by decide
/-- V-ST-3. -/
theorem test_getstop :
    answers (exec .getstop (busyAt 0x00000005#32 .stopRead (withLcr 0x04#8))) (showsResult 0#2 1#32 []) = true := by decide
/-- V-ST-2. -/
theorem test_setstop :
    answers (exec (.setstop 0#1) (busyAt 0x00000006#32 .stopWrite
        { withLcr 0x07#8 with seq := { quiet.seq with s := 0x07#8 } }))
      (fun t => t.regs.lcr == 0x03#8) = true := by decide
/-- V-WL-4. -/
theorem test_getwlen :
    answers (exec .getwlen (busyAt 0x00000007#32 .wlenRead (withLcr 0x1E#8))) (showsResult 0#2 2#32 []) = true := by decide
/-- V-WL-3. -/
theorem test_setwlen :
    answers (exec (.setwlen 1#2) (busyAt 0x00000108#32 .wlenWrite
        { withLcr 0xFF#8 with seq := { quiet.seq with s := 0xFF#8 } }))
      (fun t => t.regs.lcr == 0xFD#8) = true := by decide
/-- V-CF-3: GETCFG's packing, at its last access. -/
theorem test_getcfg_packs :
    answers (exec .getcfg (busyAt 0x0000000A#32 .wlenRead
        { withLcr 0x1E#8 with seq := { quiet.seq with hi := 0xAB#8, lo := 0xCD#8, p := 2#3, k := 1#1 } }))
      (showsResult 0#2 0x002AABCD#32 []) = true := by decide
/-- V-RG-1. -/
theorem test_regrd_lsr :
    answers (exec (.regrd 5#3) (busyAt 0x00000520#32 .rawAccess quiet)) (showsResult 0#2 0x60#32 []) = true := by decide
/-- V-RG-7: offset 0 is DLL while DLAB is 1. -/
theorem test_regrd_dll :
    answers (exec (.regrd 0#3) (busyAt 0x00000020#32 .rawAccess (withLcr 0x83#8))) (showsResult 0#2 0x01#32 []) = true := by
  decide
/-- V-RG-5: no status gate. -/
theorem test_regwr_overwrites :
    answers (exec (.regwr 0#3 0x42#8) (busyAt 0x00420021#32 .rawAccess (withQueues [] [0x41#8] none)))
      (fun t => showsResult 0#2 0#32 [] t && t.regs.faults.has .txOverwrite) = true := by decide
/-- V-RG-8. -/
theorem test_regwr_ier :
    answers (exec (.regwr 1#3 0x0F#8) (busyAt 0x000F0121#32 .rawAccess quiet)) (fun t => t.regs.ier == 0x0F#8) = true := by
  decide

/-! ### Transfer commands (2.9) -/

/-- V-RD-1: `LEN = 0` makes no access. -/
theorem test_read_zero :
    answers (exec (.read 0#16) (busyAt 0x00000010#32 .start quiet)) (showsResult 0#2 0#32 []) = true := by decide
/-- V-RD-4: no final poll. -/
theorem test_read_one :
    answers (exec (.read 1#16) (busyAt 0x00000110#32 .data (withQueues [0x31#8] [] none)))
      (showsResult 0#2 1#32 [0x31#8]) = true := by decide
/-- V-WR-4. -/
theorem test_write_notReady :
    answers (exec (.write 2#16) (busyAt 0x00000211#32 .poll (withQueues [] [0x40#8] none)))
      (showsResult 0#2 0#32 []) = true := by decide
/-- V-WR-6: the latch window sends the byte to DLL. -/
theorem test_write_latchWindow :
    answers (exec (.write 2#16) (busyAt 0x00000211#32 .data
        { withLcr 0x83#8 with seq := { quiet.seq with payload := [0x41#8, 0x42#8], i := 1#16, cnt := 1#16 } }))
      (fun t => showsResult 0#2 2#32 [] t && t.regs.dll == 0x42#8 && t.regs.txq == []) = true := by decide
/-- V-FL-1. -/
theorem test_flush_empty :
    answers (exec .flush (busyAt 0x00000012#32 .poll quiet)) (showsResult 0#2 0#32 []) = true := by decide
/-- V-FL-3: TSR busy, one spin hint, and polling goes on. -/
theorem test_flush_polls :
    answers (exec .flush (busyAt 0x00000012#32 .poll (withQueues [] [] (some 0x41#8))))
      (fun t => t.seq.t == 0x20#8 && t.seq.pc == some .spin) = true := by decide
/-- V-NB-1. -/
theorem test_rdnb_wouldBlock :
    answers (exec .rdnb (busyAt 0x00000013#32 .poll quiet)) (showsResult 1#2 0#32 []) = true := by decide
/-- V-NB-2. -/
theorem test_rdnb_byte :
    answers (exec .rdnb (busyAt 0x00000013#32 .data (withQueues [0x7E#8] [] none)))
      (fun t => showsResult 0#2 0x7E#32 [] t && t.regs.rxq == []) = true := by decide
/-- V-NB-4. -/
theorem test_wrnb_wouldBlock :
    answers (exec (.wrnb 0x5A#8) (busyAt 0x00005A14#32 .poll (withQueues [] [0x40#8] none)))
      (showsResult 1#2 0#32 []) = true := by decide
/-- V-NB-3. -/
theorem test_wrnb_writes :
    answers (exec (.wrnb 0x5A#8) (busyAt 0x00005A14#32 .data quiet))
      (fun t => showsResult 0#2 0#32 [] t && t.regs.txq == [0x5A#8]) = true := by decide
/-- V-NB-5. -/
theorem test_flnb_wouldBlock :
    answers (exec .flnb (busyAt 0x00000015#32 .poll (withQueues [] [] (some 0x41#8))))
      (showsResult 1#2 0#32 []) = true := by decide
/-- V-NB-6. -/
theorem test_flnb_ok : answers (exec .flnb (busyAt 0x00000015#32 .poll quiet)) (showsResult 0#2 0#32 []) = true := by decide
/-- V-NB-7. -/
theorem test_rdrdy :
    answers (exec .rdrdy (busyAt 0x00000016#32 .poll (withQueues [0x7E#8] [] none)))
      (fun t => showsResult 0#2 1#32 [] t && t.regs.rxq == [0x7E#8]) = true := by decide
/-- V-NB-8. -/
theorem test_wrrdy :
    answers (exec .wrrdy (busyAt 0x00000017#32 .poll (withQueues [] [0x40#8] none))) (showsResult 0#2 0#32 []) = true := by
  decide

/-! ### LINE (2.10) -/

/-- V-LN-2: OE rises, one byte survives. -/
theorem test_line_overrun :
    (rxDeliver 0x32#8 (withQueues [0x31#8] [] none)).regs.oe = true := by decide
/-- V-LN-4. -/
theorem test_line_load :
    (txLoad (withQueues [] [0x41#8] none)).regs.tsr = some 0x41#8 ∧
    (txLoad (withQueues [] [0x41#8] none)).regs.lsr = 0x20#8 := by decide
/-- V-LN-5: not enabled. -/
theorem test_line_load_busy :
    txLoad (withQueues [] [0x42#8] (some 0x41#8)) = withQueues [] [0x42#8] (some 0x41#8) := by decide
/-- V-LN-6. -/
theorem test_line_done :
    (txDone (withQueues [] [] (some 0x41#8))).regs.wire = [0x41#8] ∧
    (txDone (withQueues [] [] (some 0x41#8))).regs.lsr = 0x60#8 := by decide

/-! ### The table's words run from reset -/

/-- WRITE 2's row: placed, the next step accepts it with two payload bytes. -/
theorem test_withFetchWord_write :
    answers (step (State.reset.withFetchWord 32 0x00000211)) (fun t => t.seq.phase == .busy && t.seq.pc == some .start)
      = true := by decide
/-- DLL_WR's row: placed, the next step writes DLL. -/
theorem test_withFetchWord_dllWr :
    answers (step (State.reset.withFetchWord 16 0x5A18)) (fun t => t.regs.dll == 0x5A#8) = true := by decide

/-! ### Witnesses: states and operands that meet each statement's hypotheses -/

/-- `s` with the next move `m`. -/
def moving (m : Move) (s : State) : State := { s with agenda := [m] }

/-- `quiet` with the latch window open (LCR 0x83). -/
def latched : State := withLcr 0x83#8

/-- A WRITE of two bytes that has done its first slot. -/
def midWrite : State :=
  busyAt 0x00000211#32 .data { quiet with seq := { quiet.seq with payload := [0x41#8, 0x42#8], i := 1#16, cnt := 1#16 } }

theorem witness_StepRunsDecodedCommand_idle :
    (moving .seq (presenting 0x00000211#32 [0x41#8, 0x42#8] quiet)).ext = none ∧
    (moving .seq (presenting 0x00000211#32 [0x41#8, 0x42#8] quiet)).nextMove = .seq ∧
    (moving .seq (presenting 0x00000211#32 [0x41#8, 0x42#8] quiet)).seq.phase = .idle ∧
    decodeCommand 0x00000211#32 = .ok (.write 2#16) := by decide

theorem witness_StepRunsDecodedCommand_busy :
    (moving .seq midWrite).ext = none ∧ (moving .seq midWrite).nextMove = .seq ∧
    (moving .seq midWrite).seq.phase = .busy ∧ decodeCommand (moving .seq midWrite).seq.cmd = .ok (.write 2#16) := by decide

theorem witness_StepAnswersPresentedAccess_decoded :
    slotOffset Params.default { addr := 5, width := 1, we := true, wd := 0xFF#8 } = some 5#3 ∧
    decodeKey (busKey false true 5#3) 0xFF#8 = .ok (.lsrWr 0xFF#8) := by decide

/-- A wide access, one that only ends in the block, a wide one at its last byte, and offsets 2 and 7. -/
theorem witness_StepAnswersPresentedAccess_undecoded :
    slotOffset Params.default { addr := 0, width := 2, we := false, wd := 0#8 } = none ∧
    reachesRegs Params.default { addr := 0, width := 2, we := false, wd := 0#8 } = true ∧
    reachesRegs { Params.default with base := 8 } { addr := 6, width := 4, we := true, wd := 0#8 } = true ∧
    reachesRegs Params.default { addr := 7, width := 2, we := true, wd := 0#8 } = true ∧
    slotOffset Params.default { addr := 2, width := 1, we := false, wd := 0#8 } = some 2#3 ∧
    slotOffset Params.default { addr := 7, width := 1, we := true, wd := 0#8 } = some 7#3 := by decide

/-- One past the last slot, and the last byte before the first: the platform's addresses (R30). -/
theorem witness_StepAnswersPresentedAccess_platform :
    slotOffset Params.default { addr := 8, width := 1, we := true, wd := 0#8 } = none ∧
    reachesRegs Params.default { addr := 8, width := 1, we := true, wd := 0#8 } = false ∧
    reachesRegs { Params.default with base := 8 } { addr := 6, width := 2, we := true, wd := 0#8 } = false := by decide

/-- Stride 1 has no byte between slots; stride 8 has seven, and its block ends below `base + 64`. -/
theorem witness_SlotAddressesDecode :
    paramsWf Params.default = true ∧ paramsWf { Params.default with base := 0x1000, stride := 8 } = true ∧
    0 < 7 ∧ 7 < 8 ∧ 0x0FFF < 0x1000 ∧ 0x1000 + 8 * 8 ≤ 0x1040 := by decide

theorem witness_EncodedInstrDecodesToItself :
    (Instr.init 1#1 4#3 1#1 3#2 0xFFFF#16).wellFormed = true ∧ (Instr.regwr 3#3 0xFF#8).wellFormed = true ∧
    (Instr.regrd 5#3).wellFormed = true ∧ (Instr.lsrWr 0xFF#8).wellFormed = true := by decide

theorem witness_DecodedBitsAreTheEncoding :
    decodeCommand 0xFFFF7909#32 = .ok (.init 1#1 4#3 1#1 3#2 0xFFFF#16) ∧
    decodeKey 0b11011#5 0xFF#8 = .ok (.lcrWr 0xFF#8) ∧ decodeKey 0b10101#5 0xFF#8 = .ok .lsrRd := by decide

theorem witness_DecoderFollowsOpcodeMap :
    (∃ r ∈ opcodeRows, r.selects 0x00000404#32 = true) ∧ opcodeOf 0x00000404#32 = 0x04#8 ∧
    opcodeOf 0x00000809#32 = 0x09#8 ∧ opcodeOf 0x00000520#32 = 0x20#8 ∧ opcodeOf 0x00000321#32 = 0x21#8 ∧
    decodeCommand 0x00000404#32 = .ok (.setpar 4#3) := by decide

theorem witness_RbrReadConsumesHead :
    (withQueues [0x31#8, 0x32#8] [] none).regs.rxq = [0x31#8, 0x32#8] ∧ quiet.regs.rxq = [] := by decide

/-- Empty with depth 1, full with depth 1. -/
theorem witness_ThrWriteAppendsOrOverwrites :
    quiet.regs.txq.length < quiet.params.txDepth ∧
    (withQueues [] [0x41#8] none).params.txDepth ≤ (withQueues [] [0x41#8] none).regs.txq.length ∧
    1 ≤ quiet.params.txDepth ∧ ∃ t, exec (.thrWr 0x42#8) (withQueues [] [0x41#8] none) = .next t :=
  ⟨by decide, by decide, by decide, _, rfl⟩

theorem witness_LsrReadSamplesThenClears :
    quiet.params.lsrRdClears = true ∧
    { quiet with params := { Params.default with lsrRdClears := false } }.params.lsrRdClears = false := by decide

theorem witness_LatchWindowHidesDataPath : latched.dlab = true := by decide

theorem witness_TemtImpliesThreImpliesRoom :
    quiet.wf = true ∧ quiet.regs.temt = true ∧ quiet.regs.thre = true ∧ 1 < 2 := by decide

theorem witness_ParityCodecRoundTrip : (0#3).toNat ≤ 4 ∧ (4#3).toNat ≤ 4 := by decide

theorem witness_ParityTables : setPar 0xFF#8 4#3 = some 0xFF#8 ∧ parEnc 4#3 = some 0x38#8 ∧ 4 < (5#3).toNat := by decide

/-- Commands without and with a payload, and INIT with and without its divisor step. -/
theorem witness_LegalCommandStarts :
    payloadFits .getdiv [] = true ∧ (labelsOf true .getdiv).head? = some .lcrSave ∧
    payloadFits (.write 2#16) [0x41#8, 0x42#8] = true ∧ (labelsOf true (.write 2#16)).head? = some .start ∧
    (Instr.init 0#1 4#3 0#1 3#2 0#16).wellFormed = true ∧
    (labelsOf true (.init 0#1 4#3 0#1 3#2 0#16)).head? = some .parRead ∧
    (labelsOf false (.init 1#1 4#3 0#1 3#2 0#16)).head? = some .lcrSave ∧
    (presenting 0x00000001#32 [] quiet).seq.phase = .idle ∧
    (presenting 0x00000001#32 [] quiet).port = some { word := 0x00000001#32, payload := [] } := by decide

/-- An illegal word; a legal word with a payload that does not fit; HOST while BUSY and while IDLE. -/
theorem witness_IllegalCommandRejected_word :
    (moving .seq (presenting 0x0000000B#32 [] quiet)).nextMove = .seq ∧
    ∀ i, decodeCommand 0x0000000B#32 = .ok i → payloadFits i [] = false := by
  refine ⟨by decide, fun i h => ?_⟩
  have bad : decodeCommand 0x0000000B#32 = .error .unassignedOpcode := by decide
  rw [bad] at h
  cases h

theorem witness_IllegalCommandRejected_payload :
    ∀ i, decodeCommand 0x00000211#32 = .ok i → payloadFits i [0x41#8] = false := by
  intro i h
  have hw : decodeCommand 0x00000211#32 = .ok (.write 2#16) := by decide
  rw [hw] at h
  cases h
  decide

theorem witness_IllegalCommandRejected_host :
    (moving (.host { word := 1#32, payload := [] }) midWrite).nextMove = .host { word := 1#32, payload := [] } ∧
    midWrite.seq.phase = .busy ∧ midWrite.ext = none ∧ quiet.seq.phase = .idle ∧ quiet.port = none := by decide

/-- Every label of GETDIV, SETDIV, INIT and GETCFG, with the latch window open where the statement asks for it. -/
theorem witness_windowMicroPrograms :
    ∀ l ∈ [Label.lcrSave, .latchOpen, .divLow, .divHigh, .lcrRestore, .parRead, .parWrite, .stopRead, .stopWrite,
        .wlenRead, .wlenWrite],
      (busyAt 0x0000000A#32 l latched).seq.phase = .busy ∧ (busyAt 0x0000000A#32 l latched).seq.pc = some l ∧
      (busyAt 0x0000000A#32 l latched).dlab = true ∧
      (busyAt 0x0000000A#32 l latched).params.getdivRestore = true := by decide

theorem witness_GetdivMicroProgram_noRestore :
    ({ latched with params := { Params.default with getdivRestore := false } }).params.getdivRestore = false := by decide

theorem witness_FieldSettersOverwriteField : setPar 0x83#8 1#3 = some 0x8B#8 := by decide

theorem witness_RawAccessReachesSelectedRegister :
    (busyAt 0x00000520#32 .rawAccess quiet).seq.phase = .busy ∧
    (busyAt 0x00000520#32 .rawAccess quiet).seq.pc = some .rawAccess ∧
    regrdOffsetLegal 0#3 = true ∧ regrdOffsetLegal 1#3 = true ∧ regrdOffsetLegal 3#3 = true ∧
    regrdOffsetLegal 5#3 = true ∧ regwrOffsetLegal 0#3 = true ∧ regwrOffsetLegal 1#3 = true ∧
    regwrOffsetLegal 3#3 = true := by decide

/-- READ at each label: `LEN` zero and not, the queue empty and not. -/
theorem witness_ReadMicroProgram :
    (∀ l ∈ [Label.start, .poll, .data], (busyAt 0x00000410#32 l quiet).seq.phase = .busy ∧
      (busyAt 0x00000410#32 l quiet).seq.pc = some l) ∧
    (4#16 : Half) ≠ 0#16 ∧ (busyAt 0x00000410#32 .poll quiet).regs.rxq = [] ∧
    (busyAt 0x00000410#32 .poll (withQueues [0x31#8] [] none)).regs.rxq ≠ [] := by decide

/-- WRITE at each label, and the slot's payload byte. -/
theorem witness_WriteMicroProgram :
    (∀ l ∈ [Label.start, .poll, .data], (busyAt 0x00000211#32 l quiet).seq.phase = .busy ∧
      (busyAt 0x00000211#32 l quiet).seq.pc = some l) ∧
    midWrite.seq.payload[midWrite.seq.i.toNat]? = some 0x42#8 ∧
    (busyAt 0x00000211#32 .poll quiet).regs.txq = [] ∧
    (busyAt 0x00000211#32 .poll (withQueues [] [0x40#8] none)).regs.txq ≠ [] := by decide

theorem witness_FlushMicroProgram :
    (∀ l ∈ [Label.poll, .spin], (busyAt 0x00000012#32 l quiet).seq.phase = .busy ∧
      (busyAt 0x00000012#32 l quiet).seq.pc = some l) ∧
    quiet.regs.txq = [] ∧ quiet.regs.tsr = none ∧ (withQueues [] [0x42#8] none).regs.txq ≠ [] ∧
    (withQueues [] [] (some 0x41#8)).regs.tsr ≠ none := by decide

theorem witness_ReadinessQueriesReturnFlag :
    (busyAt 0x00000016#32 .poll quiet).seq.phase = .busy ∧
    (busyAt 0x00000016#32 .poll quiet).seq.pc = some .poll := by decide

theorem witness_SingleWordMicroPrograms :
    (∀ l ∈ [Label.poll, .data], (busyAt 0x00000013#32 l quiet).seq.phase = .busy ∧
      (busyAt 0x00000013#32 l quiet).seq.pc = some l) ∧
    quiet.regs.rxq = [] ∧ (withQueues [0x7E#8] [] none).regs.rxq ≠ [] ∧ quiet.regs.txq = [] ∧
    (withQueues [] [0x40#8] none).regs.txq ≠ [] := by decide

/-- `quiet` and `latched` present a command that decodes. -/
theorem presents_of (s : State) (w : Word) (payload : List Byte) (i : Instr) (he : s.ext = none)
    (hp : s.seq.phase = .idle) (hd : decodeCommand w = .ok i) (hf : payloadFits i payload = true) :
    (presenting w payload s).presents i payload :=
  ⟨he, hp, hf, _, rfl, rfl, hd⟩

/-- LINE steps between SEQ's. -/
def interleaved (n : Nat) : List Move :=
  (List.replicate n [Move.line (.rxDeliver 0x66#8), .seq, .line .txLoad, .line .txDone]).flatten

theorem witness_SetdivThenGetdivReturnsDivisor :
    (presenting 0x00ABCD02#32 [] quiet).presents (.setdiv 0xABCD#16) [] ∧ seqAndLine (interleaved 6) = true ∧
    (interleaved 6).count .seq = 6 ∧ (interleaved 5).count .seq = 5 :=
  ⟨presents_of _ _ _ _ rfl rfl (by decide) (by decide), by decide, by decide, by decide⟩

theorem witness_FieldCommandsRoundTrip :
    seqAndLine (interleaved 3) = true ∧ (interleaved 3).count .seq = 3 ∧ (interleaved 2).count .seq = 2 ∧
    (presenting 0x00000404#32 [] quiet).presents (.setpar 4#3) [] ∧ (4#3).toNat ≤ 4 ∧
    (presenting 0x00000106#32 [] quiet).presents (.setstop 1#1) [] ∧
    (presenting 0x00000308#32 [] quiet).presents (.setwlen 3#2) [] :=
  ⟨by decide, by decide, by decide, presents_of _ _ _ _ rfl rfl (by decide) (by decide), by decide,
    presents_of _ _ _ _ rfl rfl (by decide) (by decide), presents_of _ _ _ _ rfl rfl (by decide) (by decide)⟩

theorem witness_InitAppliesConfiguration :
    (presenting 0x00016109#32 [] quiet).presents (.init 1#1 0#3 0#1 3#2 1#16) [] ∧
    (presenting 0x00006009#32 [] latched).presents (.init 0#1 0#3 0#1 3#2 0#16) [] ∧
    seqAndLine (interleaved 12) = true ∧ (interleaved 12).count .seq = 12 ∧ (interleaved 7).count .seq = 7 :=
  ⟨presents_of _ _ _ _ rfl rfl (by decide) (by decide), presents_of _ _ _ _ rfl rfl (by decide) (by decide),
    by decide, by decide, by decide⟩

theorem witness_GetcfgReportsConfiguration :
    (presenting 0x0000000A#32 [] quiet).presents .getcfg [] ∧ seqAndLine (interleaved 9) = true ∧
    (interleaved 9).count .seq = 9 ∧ (interleaved 8).count .seq = 8 :=
  ⟨presents_of _ _ _ _ rfl rfl (by decide) (by decide), by decide, by decide, by decide⟩

theorem witness_ReadReturnsQueuedBytes :
    (presenting 0x00000410#32 [] (withQueues [0x31#8] [] none)).presents (.read 4#16) [] ∧
    (presenting 0x00000410#32 [] (withQueues [0x31#8] [] none)).dlab = false ∧ 1 = min (4#16).toNat [0x31#8].length :=
  ⟨presents_of _ _ _ _ rfl rfl (by decide) (by decide), by decide, by decide⟩

theorem witness_ReadCountsReadyPolls :
    (presenting 0x00000410#32 [] quiet).wf = true ∧ (presenting 0x00000410#32 [] quiet).presents (.read 4#16) [] ∧
    (presenting 0x00000410#32 [] quiet).dlab = false ∧ (presenting 0x00000410#32 [] quiet).regs.rxq = [] ∧
    [0x31#8, 0x32#8, 0x33#8].length ≤ (4#16).toNat :=
  ⟨by decide, presents_of _ _ _ _ rfl rfl (by decide) (by decide), by decide, by decide, by decide⟩

theorem witness_WriteSendsPayloadPrefix :
    (presenting 0x00000211#32 [0x41#8, 0x42#8] quiet).wf = true ∧
    (presenting 0x00000211#32 [0x41#8, 0x42#8] quiet).presents (.write 2#16) [0x41#8, 0x42#8] ∧
    (presenting 0x00000211#32 [0x41#8, 0x42#8] quiet).dlab = false ∧ seqAndLine (interleaved 6) = true ∧
    2 + 2 * (2#16).toNat ≤ (interleaved 6).count .seq :=
  ⟨by decide, presents_of _ _ _ _ rfl rfl (by decide) (by decide), by decide, by decide, by decide⟩

/-- V-WR-2 (k = 1 of 2); k = 2 of 2 meets them too. -/
theorem witness_WriteCountsReadyPolls :
    (presenting 0x00000211#32 [0x41#8, 0x42#8] quiet).presents (.write 2#16) [0x41#8, 0x42#8] ∧
    (presenting 0x00000211#32 [0x41#8, 0x42#8] quiet).dlab = false ∧ quiet.params.txDepth = 1 ∧
    quiet.regs.txq = [] ∧ quiet.regs.tsr = none ∧ 1 ≤ 1 ∧ 1 ≤ 2 ∧ 2 ≤ (2#16).toNat :=
  ⟨presents_of _ _ _ _ rfl rfl (by decide) (by decide), by decide, by decide, by decide, by decide, by decide,
    by decide, by decide⟩

/-- V-FL-1: acceptance and one poll. -/
theorem witness_FlushReturnsOnlyWhenDrained :
    (presenting 0x00000012#32 [] quiet).presents .flush [] ∧ seqAndLine [.seq, .seq] = true ∧
    ∃ t, runMoves [.seq, .seq] (presenting 0x00000012#32 [] quiet) = some t ∧ t.seq.phase = .idle ∧ t.port = none :=
  ⟨presents_of _ _ _ _ rfl rfl (by decide) (by decide), by decide, _, rfl, by decide, by decide⟩

/-- A running FLUSH with a byte in the shift register. -/
def flushing : State := busyAt 0x00000012#32 .poll (withQueues [] [] (some 0x41#8))

theorem witness_FlushPollsOnceMoreThanBusyPolls :
    flushing.ext = none ∧ flushing.seq.phase = .busy ∧ flushing.seq.pc = some .poll ∧
    decodeCommand flushing.seq.cmd = .ok .flush ∧ flushing.regs.txq = [] ∧
    flushing.regs.tsr = some 0x41#8 := by decide

theorem witness_FlushHangsWhileLineStalls :
    (presenting 0x00000012#32 [] (withQueues [] [] (some 0x41#8))).presents .flush [] ∧
    (presenting 0x00000012#32 [] (withQueues [] [] (some 0x41#8))).regs.txBusy = true ∧
    seqAndLine [.seq, .line (.rxDeliver 0x66#8)] = true ∧ Move.seq ∈ [Move.seq, .line (.rxDeliver 0x66#8)] ∧
    Move.line .txLoad ∉ [Move.seq, .line (.rxDeliver 0x66#8)] ∧
    Move.line .txDone ∉ [Move.seq, .line (.rxDeliver 0x66#8)] :=
  ⟨presents_of _ _ _ _ rfl rfl (by decide) (by decide), by decide, by decide, by decide, by decide, by decide⟩

/-- The shift register empties first; then SEQ moves forever. -/
def drainThenPoll : Nat → Move
  | 0 => .line .txDone
  | _ + 1 => .seq

/-- From the second move on, SEQ is IDLE with nothing presented, and the transmitter is empty. -/
theorem drainThenPoll_idle (n : Nat) :
    ∃ u, trace drainThenPoll flushing (n + 2) = some u ∧ u.ext = none ∧ u.seq.phase = .idle ∧ u.port = none ∧
      u.regs.txBusy = false := by
  induction n with
  | zero => exact ⟨_, rfl, by decide, by decide, by decide, by decide⟩
  | succ n ih =>
    obtain ⟨u, hu, he, hi, hp, hb⟩ := ih
    have hs : step (u.schedule .seq) = .next { u with ticks := u.ticks + 1 } := by
      rw [step_schedule _ _ he]
      simp only [takeMove, seqStep, State.fetchWord, hi, hp, Option.map_none]
    refine ⟨{ u with ticks := u.ticks + 1 }, ?_, he, hi, hp, hb⟩
    show (match trace drainThenPoll flushing (n + 2) with
      | none => none
      | some v => match step (v.schedule .seq) with
        | .next t => some t
        | .fault _ => none
        | .refused _ => none) = _
    rw [hu]
    show (match step (u.schedule .seq) with
      | .next t => some t
      | .fault _ => none
      | .refused _ => none) = _
    rw [hs]

theorem witness_FlushReturnsUnderLineFair :
    flushing.wf = true ∧ flushing.ext = none ∧ flushing.seq.phase = .busy ∧
    decodeCommand flushing.seq.cmd = .ok .flush ∧ (∀ n, isSeqOrLine (drainThenPoll n) = true) ∧
    SeqMovesForever drainThenPoll ∧ LineFair drainThenPoll flushing := by
  refine ⟨by decide, by decide, by decide, by decide, fun n => by cases n <;> rfl, fun a => ⟨a + 1, by omega, rfl⟩, ?_⟩
  rintro ⟨start, h⟩
  obtain ⟨u, hu, hb⟩ := h (start + 2) (by omega)
  obtain ⟨v, hv, -, -, -, hn⟩ := drainThenPoll_idle start
  rw [hu] at hv
  cases hv
  rw [hb] at hn
  cases hn

theorem witness_TransfersInLatchWindowReachDll :
    latched.dlab = true ∧
    (presenting 0x00000210#32 [] { latched with regs := { latched.regs with rxq := [0x55#8] } }).presents
      (.read 2#16) [] ∧
    (presenting 0x00000211#32 [0x41#8, 0x42#8] latched).presents (.write 2#16) [0x41#8, 0x42#8] ∧
    latched.regs.txq = [] :=
  ⟨by decide, presents_of _ _ _ _ rfl rfl (by decide) (by decide),
    presents_of _ _ _ _ rfl rfl (by decide) (by decide), by decide⟩

theorem witness_EveryCommandButFlushReturns :
    (presenting 0x00000110#32 [] quiet).wf = true ∧ (presenting 0x00000110#32 [] quiet).presents (.read 1#16) [] ∧
    Instr.read 1#16 ≠ .flush ∧ seqAndLine (interleaved 4) = true ∧
    seqStepBound true (.read 1#16) ≤ (interleaved 4).count .seq :=
  ⟨by decide, presents_of _ _ _ _ rfl rfl (by decide) (by decide), by decide, by decide, by decide⟩

theorem witness_LineKeepsPolledFlags :
    (withQueues [0x31#8] [] none).regs.dr = true ∧ quiet.regs.thre = true ∧ quiet.regs.temt = true := by decide

/-- Each LINE step enabled, and the two that can be not enabled. -/
theorem witness_LineStepsActAsGiven :
    (moving (.line .txLoad) (withQueues [] [0x41#8] none)).nextMove = .line .txLoad ∧
    (moving (.line .txLoad) quiet).ext = none ∧
    quiet.regs.rxq.length < quiet.params.rxDepth ∧
    (withQueues [0x31#8] [] none).params.rxDepth ≤ (withQueues [0x31#8] [] none).regs.rxq.length ∧
    (withQueues [] [0x41#8] none).regs.txq = [0x41#8] ∧ (withQueues [] [0x41#8] none).regs.tsr = none ∧
    (withQueues [] [0x42#8] (some 0x41#8)).regs.tsr ≠ none ∧
    (withQueues [] [] (some 0x41#8)).regs.tsr = some 0x41#8 ∧ quiet.regs.tsr = none := by decide

theorem witness_ResetLeavesIdleEmptyBlock :
    (moving .reset midWrite).ext = none ∧ (moving .reset midWrite).nextMove = .reset ∧
    ∃ t, step (moving .reset midWrite) = .next t :=
  ⟨by decide, by decide, _, rfl⟩

/-- A running WRITE, inside its loop, is well-formed, its poll holds, and no window is open. -/
theorem witness_invariants_midWrite :
    (moving .seq midWrite).wf = true ∧ (moving .seq midWrite).ext = none ∧ (moving .seq midWrite).pollHolds = true ∧
    (moving .seq midWrite).windowOpen = true ∧ (moving .seq midWrite).nextMove ≠ .reset ∧
    (moving .seq midWrite).latchClosed = true ∧ (moving .seq midWrite).params.getdivRestore = true ∧
    (moving .seq midWrite).pokesDlab true = false ∧ ∃ t, step (moving .seq midWrite) = .next t :=
  ⟨by decide, by decide, by decide, by decide, by decide, by decide, by decide, by decide, _, rfl⟩

/-- `REGWR 0, v` with TXQ full, the one step that raises a fault. -/
def pokingThr : State := moving .seq (busyAt 0x00420021#32 .rawAccess (withQueues [] [0x41#8] none))

theorem witness_OnlyRawWriteRaisesFault :
    pokingThr.wf = true ∧ pokingThr.ext = none ∧ pokingThr.pollHolds = true ∧ pokingThr.windowOpen = true ∧
    pokingThr.nextMove ≠ .reset ∧ pokingThr.pokesThr = true ∧ ∃ t, step pokingThr = .next t :=
  ⟨by decide, by decide, by decide, by decide, by decide, by decide, _, rfl⟩

/-- A fault code that is there before the step. -/
theorem witness_FaultsStickyParamsFixed :
    (pokingThr.raise .roWrite).nextMove ≠ .reset ∧ (pokingThr.raise .roWrite).regs.faults.has .roWrite = true ∧
    ∃ t, step (pokingThr.raise .roWrite) = .next t :=
  ⟨by decide, by decide, _, rfl⟩

/-- A SETDIV in its latch window: closed in the sense of the discipline, with DLAB 1. -/
theorem witness_LatchStaysClosed :
    (moving .seq (busyAt 0x00ABCD02#32 .divLow { latched with seq := { latched.seq with s := 0x03#8 } })).wf = true ∧
    (moving .seq (busyAt 0x00ABCD02#32 .divLow { latched with seq := { latched.seq with s := 0x03#8 } })).latchClosed
      = true ∧
    (moving .seq (busyAt 0x00ABCD02#32 .divLow { latched with seq := { latched.seq with s := 0x03#8 } })).pokesDlab true
      = false := by decide

/-- A SETDIV that was presented while DLAB was 1. -/
theorem witness_LatchStaysOpenUntilRawWrite :
    (moving .seq (busyAt 0x00ABCD02#32 .lcrRestore { latched with seq := { latched.seq with s := 0x83#8 } })).wf = true ∧
    (moving .seq (busyAt 0x00ABCD02#32 .lcrRestore { latched with seq := { latched.seq with s := 0x83#8 } })).latchStuck
      = true ∧
    (moving .seq (busyAt 0x00ABCD02#32 .lcrRestore { latched with seq := { latched.seq with s := 0x83#8 } })).pokesDlab
      false = false ∧
    (moving .seq (busyAt 0x00ABCD02#32 .lcrRestore { latched with seq := { latched.seq with s := 0x83#8 } })).nextMove
      ≠ .reset := by decide

end Sys2Proof.Tests
end

section
/-! Proofs about fetching and decoding: whose move a step is, and which word SEQ works on. -/

namespace Sys2Proof.Machine

/-! ### What a step is -/

/-- With no outside master on the bus, a step is the next move, taken from the agenda and counted (R9, R97). -/
theorem step_of_ext_none {s : State} (hext : s.ext = none) : step s = takeMove s.nextMove s.advance := by
  simp only [step, machineStep, hext]

/-- While IDLE, SEQ works on the word presented to it (R99). -/
theorem State.fetchWord_idle {s : State} {c : Command} (hphase : s.seq.phase = .idle) (hport : s.port = some c) :
    s.fetchWord = some c.word := by
  simp only [State.fetchWord, hphase, hport, Option.map_some]

/-- While BUSY, SEQ works on the word it latched at acceptance (R36). -/
theorem State.fetchWord_busy {s : State} (hphase : s.seq.phase = .busy) : s.fetchWord = some s.seq.cmd := by
  simp only [State.fetchWord, hphase]

/-- Taking a move leaves the word SEQ works on. -/
@[simp] theorem State.advance_fetchWord (s : State) : s.advance.fetchWord = s.fetchWord := rfl

/-- SEQ runs the instruction its word decodes to. -/
theorem seqStep_of_decodeCommand_ok {s : State} {c : Word} {i : Instr} (hword : s.fetchWord = some c)
    (hdec : decodeCommand c = .ok i) : seqStep s = exec i s := by
  simp only [seqStep, hword, hdec]

/-- When SEQ moves next and nobody else is on the bus, the step runs the instruction SEQ's word decodes to. -/
theorem step_of_seq_decodeCommand_ok {s : State} {c : Word} {i : Instr} (hext : s.ext = none)
    (hmove : s.nextMove = .seq) (hword : s.fetchWord = some c) (hdec : decodeCommand c = .ok i) :
    step s = exec i s.advance :=
  calc step s = takeMove s.nextMove s.advance := step_of_ext_none hext
    _ = seqStep s.advance := by rw [hmove]; rfl
    _ = exec i s.advance := seqStep_of_decodeCommand_ok (s.advance_fetchWord.trans hword) hdec

/-! ### The obligation -/

/-- Settles O1: the word SEQ works on is the presented one while IDLE and the latched one while BUSY, and in both cases
the step runs what it decodes to. -/
theorem stepRunsDecodedCommand : Obligations.StepRunsDecodedCommand := by
  intro s i hext hmove
  constructor
  · intro c hidle hport hdec
    exact step_of_seq_decodeCommand_ok hext hmove (State.fetchWord_idle hidle hport) hdec
  · intro hbusy hdec
    exact step_of_seq_decodeCommand_ok hext hmove (State.fetchWord_busy hbusy) hdec

end Sys2Proof.Machine
end

section
/-! Proofs about the line status flags (R14, R15): each flag as a test on the queues, each bit of LSR as its flag. -/

namespace Sys2Proof.Machine

/-! ### The computed flags -/

/-- DR says that RXQ holds a byte. -/
theorem Regs.dr_eq_decide (r : Regs) : r.dr = decide (r.rxq ≠ []) := by
  cases h : r.rxq <;> simp [Regs.dr, h]

/-- THRE says that TXQ is empty (C5). -/
theorem Regs.thre_eq_decide (r : Regs) : r.thre = decide (r.txq = []) := by
  cases h : r.txq <;> simp [Regs.thre, h]

/-- TEMT says that nothing is left to send, in TXQ or in the shift register. -/
theorem Regs.temt_eq_decide (r : Regs) : r.temt = decide (r.txq = [] ∧ r.tsr = none) := by
  cases hq : r.txq <;> cases ht : r.tsr <;> simp [Regs.temt, hq, ht]

/-- Which flag stands at which bit of the LSR byte. -/
theorem Regs.lsr_getLsbD (r : Regs) :
    r.lsr.getLsbD 0 = r.dr ∧ r.lsr.getLsbD 1 = r.oe ∧ r.lsr.getLsbD 2 = r.pe ∧ r.lsr.getLsbD 3 = r.fe ∧
    r.lsr.getLsbD 4 = r.bi ∧ r.lsr.getLsbD 5 = r.thre ∧ r.lsr.getLsbD 6 = r.temt ∧ r.lsr.getLsbD 7 = r.b7 := by
  simp only [Regs.lsr, BitVec.getLsbD_append, BitVec.getLsbD_ofBool]
  simp

/-- Settles O17: the byte's bits are the flags, and the three computed flags are tests on the queues. -/
theorem lsrBitsAreTheFlags : Obligations.LsrBitsAreTheFlags := by
  intro r
  rw [← r.dr_eq_decide, ← r.thre_eq_decide, ← r.temt_eq_decide]
  exact r.lsr_getLsbD

end Sys2Proof.Machine
end

section
/-! Well-formed states, taken apart: what `State.wf` says of a state, which changes cannot touch it, and the state
after a reset. -/

namespace Sys2Proof.Machine

/-! ### The parts of well-formedness -/

theorem State.wf_iff {s : State} :
    s.wf = true ↔ paramsWf s.params = true ∧ QueuesBounded s ∧ s.seqWf = true ∧ s.resultWf = true := by
  simp only [State.wf, QueuesBounded, Bool.and_eq_true, decide_eq_true_eq, and_assoc]

/-- Both depths are at least 1 (R5). -/
theorem paramsWf_depths {p : Params} (h : paramsWf p = true) : 1 ≤ p.rxDepth ∧ 1 ≤ p.txDepth := by
  simp only [paramsWf, Bool.and_eq_true, decide_eq_true_eq] at h
  obtain ⟨⟨-, hrx⟩, htx⟩ := h
  exact ⟨hrx, htx⟩

/-- SEQ is IDLE with no position, or BUSY at a label it may be at, with both ports empty (R22, R36). -/
theorem State.seqWf_iff {s : State} :
    s.seqWf = true ↔
      (s.seq.phase = .idle ∧ s.seq.pc = none) ∨
      (∃ l, s.seq.phase = .busy ∧ s.seq.pc = some l ∧ s.port = none ∧ s.result = none ∧
        s.seq.running s.params.getdivRestore l = true) := by
  cases hphase : s.seq.phase <;> cases hpc : s.seq.pc <;> simp [State.seqWf, hphase, hpc, and_assoc]

/-- SEQ runs at a label of the command that its word spells, with that command's payload and slot counters in step. -/
theorem Seq.running_iff {restore : Bool} {q : Seq} {l : Label} :
    q.running restore l = true ↔
      ∃ i, decodeCommand q.cmd = .ok i ∧ l ∈ labelsOf restore i ∧ payloadFits i q.payload = true ∧
        slotsCounted i l q = true := by
  cases hdec : decodeCommand q.cmd <;> simp [Seq.running, hdec, and_assoc]

/-- Where SEQ stands in the micro-program does not enter the slot counters' rule. -/
@[simp] theorem slotsCounted_pc (i : Instr) (l : Label) (q : Seq) (pc : Option Label) :
    slotsCounted i l { q with pc := pc } = slotsCounted i l q := by
  cases i <;> rfl

/-! ### Changes that keep it -/

/-- A change outside the parameters, SEQ and the two ports can break well-formedness only by the queues. -/
theorem State.wf_of_queuesBounded {s t : State} (h : s.wf = true) (hparams : t.params = s.params)
    (hseq : t.seq = s.seq) (hport : t.port = s.port) (hresult : t.result = s.result) (hqueues : QueuesBounded t) :
    t.wf = true := by
  obtain ⟨hp, -, hq, hr⟩ := State.wf_iff.mp h
  refine State.wf_iff.mpr ⟨hparams ▸ hp, hqueues, ?_, ?_⟩
  · simpa only [State.seqWf, hparams, hseq, hport, hresult] using hq
  · simpa only [State.resultWf, hresult] using hr

/-- While SEQ is IDLE, what is presented and which acceptable result is out are free. -/
theorem State.wf_of_idle {s t : State} (h : s.wf = true) (hidle : s.seq.phase = .idle) (hparams : t.params = s.params)
    (hregs : t.regs = s.regs) (hseq : t.seq = s.seq) (hresult : t.resultWf = true) : t.wf = true := by
  obtain ⟨hp, hb, hq, -⟩ := State.wf_iff.mp h
  refine State.wf_iff.mpr ⟨hparams ▸ hp, by simpa only [QueuesBounded, hparams, hregs] using hb, ?_, hresult⟩
  rcases State.seqWf_iff.mp hq with ⟨-, hpc⟩ | ⟨l, hbusy, -⟩
  · exact State.seqWf_iff.mpr (.inl ⟨hseq ▸ hidle, hseq ▸ hpc⟩)
  · rw [hidle] at hbusy
    cases hbusy

/-- A reset leaves a well-formed state (R113). -/
theorem State.afterReset_wf {p : Params} (h : paramsWf p = true) (n : Nat) (ext : Option BusAccess)
    (agenda : List Move) (ticks : Nat) : (State.afterReset p n ext agenda ticks).wf = true :=
  State.wf_iff.mpr ⟨h, ⟨Nat.zero_le _, Nat.zero_le _⟩, rfl, rfl⟩

end Sys2Proof.Machine
end

section
/-! Proof of R15, with the state that shows THRE = 0 beside room in TXQ. -/

namespace Sys2Proof.Machine

/-- A block right after reset, with transmit holding storage for `depth` bytes, after one byte was queued. -/
def oneByteQueued (depth : Nat) : State :=
  let s := State.afterReset { Params.default with txDepth := depth } 0 none [] 0
  { s with regs := { s.regs with txq := [0x41#8] } }

theorem oneByteQueued_wf {depth : Nat} (h : 1 ≤ depth) : (oneByteQueued depth).wf = true := by
  have hparams : paramsWf { Params.default with txDepth := depth } = true := by simp [paramsWf, Params.default, h]
  exact State.wf_of_queuesBounded (State.afterReset_wf hparams 0 none [] 0) rfl rfl rfl rfl ⟨Nat.zero_le _, h⟩

/-- Settles O18: THRE is emptiness of TXQ, which TEMT implies, and which leaves room because the depth is at least 1;
one queued byte of a deeper TXQ clears THRE and leaves room. -/
theorem temtImpliesThreImpliesRoom : Obligations.TemtImpliesThreImpliesRoom := by
  constructor
  · intro s hwf
    obtain ⟨hparams, -⟩ := State.wf_iff.mp hwf
    obtain ⟨-, hdepth⟩ := paramsWf_depths hparams
    rw [Regs.temt_eq_decide, Regs.thre_eq_decide, decide_eq_true_eq, decide_eq_true_eq]
    refine ⟨And.left, Iff.rfl, fun hempty => ?_⟩
    rw [hempty]
    exact hdepth
  · intro depth hdepth
    exact ⟨oneByteQueued depth, oneByteQueued_wf hdepth.le, rfl, rfl, hdepth⟩

end Sys2Proof.Machine
end

section
/-! The accesses of an outside master, LINE's and HOST's moves and the platform's reset keep a state well-formed. -/

namespace Sys2Proof.Machine

/-! ### An access of an outside master -/

/-- No key of the register bus selects a command (R39). -/
theorem isCommand_of_decodeKey_ok {key : BitVec 5} {wd : Byte} {i : Instr} (h : decodeKey key wd = .ok i) :
    i.isCommand = false := by
  unfold decodeKey at h
  split at h <;> cases h <;> rfl

/-- A bus operation is the one step of REGS that answers it (R50 to R61). -/
theorem exec_busOperation {i : Instr} (h : i.isCommand = false) (s : State) : exec i s = .next (regsApply i s) := by
  cases i
  case rbrRd | thrWr | dllRd | dllWr | ierRd | ierWr | dlmRd | dlmWr | lcrRd | lcrWr | lsrRd | lsrWr => rfl
  all_goals cases h

/-- An access whose key selects an operation is answered by that operation (R38). -/
theorem busAccess_of_decodeKey_ok {we : Bool} {off : BitVec 3} {wd : Byte} {s : State} {i : Instr}
    (h : decodeKey (busKey s.dlab we off) wd = .ok i) : busAccess we off wd s = regsApply i s := by
  simp only [busAccess, h]

/-- An access whose key selects nothing is undecoded (R62). -/
theorem busAccess_of_decodeKey_error {we : Bool} {off : BitVec 3} {wd : Byte} {s : State} {e : DecodeError}
    (h : decodeKey (busKey s.dlab we off) wd = .error e) : busAccess we off wd s = undecodedAccess we s := by
  simp only [busAccess, h]

/-- The answer to an outside access is a next state: the access as SEQ would make it, an undecoded one, or nothing. -/
theorem busStep_cases (a : BusAccess) (s : State) :
    (∃ off, busStep a s = .next (busAccess a.we off a.wd s)) ∨
    busStep a s = .next (undecodedAccess a.we s) ∨ busStep a s = .next s := by
  unfold busStep
  split
  · split
    · exact .inr (.inl rfl)
    · exact .inr (.inr rfl)
  · rename_i off hoff
    refine .inl ⟨off, ?_⟩
    split
    · rename_i i hi
      rw [busAccess_of_decodeKey_ok hi]
      exact exec_busOperation (isCommand_of_decodeKey_ok hi) s
    · rename_i e he
      rw [busAccess_of_decodeKey_error he]

/-- An undecoded access keeps the queues within their depths. -/
theorem undecodedAccess_queuesBounded (we : Bool) (s : State) (h : QueuesBounded s) :
    QueuesBounded (undecodedAccess we s) := by
  cases we <;> exact h

/-- A change of REGS, RD and the draw counter that keeps the queues within their depths keeps a state well-formed. -/
theorem SameOutsideRegs.wf {s t : State} (hsame : SameOutsideRegs s t) (hqueues : QueuesBounded s → QueuesBounded t)
    (h : s.wf = true) : t.wf = true := by
  obtain ⟨-, hbounded, -⟩ := State.wf_iff.mp h
  exact State.wf_of_queuesBounded h hsame.params hsame.seq hsame.port hsame.result (hqueues hbounded)

theorem busStep_wf (a : BusAccess) {s : State} (h : s.wf = true) : ∃ t, busStep a s = .next t ∧ t.wf = true := by
  rcases busStep_cases a s with ⟨off, he⟩ | he | he
  · exact ⟨_, he, (busAccess_sameOutsideRegs a.we off a.wd s).wf (busAccess_queuesBounded a.we off a.wd s) h⟩
  · exact ⟨_, he, (undecodedAccess_sameOutsideRegs a.we s).wf (undecodedAccess_queuesBounded a.we s) h⟩
  · exact ⟨s, he, h⟩

/-! ### The moves of LINE, HOST and the platform -/

/-- LINE's steps keep the queues within their depths: a delivery to a full RXQ replaces its last byte (R93). -/
theorem lineStep_queuesBounded (l : LineStep) {s : State} (hdepth : 1 ≤ s.params.rxDepth) (h : QueuesBounded s) :
    QueuesBounded (lineStep l s) := by
  obtain ⟨hr, ht⟩ := h
  cases l with
  | rxDeliver b =>
    show QueuesBounded (rxDeliver b s)
    rcases rxDeliver_cases b s with ⟨hroom, he⟩ | ⟨-, q, hq, he⟩
    · rw [he]
      exact ⟨by simpa using hroom, ht⟩
    · rw [he]
      refine ⟨?_, ht⟩
      rcases hq with rfl | rfl
      · exact hr
      · simp only [List.length_append, List.length_dropLast, List.length_singleton]
        omega
  | txLoad =>
    show QueuesBounded (txLoad s)
    rcases txLoad_cases s with ⟨b, rest, hq, -, he⟩ | ⟨-, he⟩
    · rw [he]
      rw [hq] at ht
      exact ⟨hr, Nat.le_of_succ_le ht⟩
    · rw [he]
      exact ⟨hr, ht⟩
  | txDone =>
    show QueuesBounded (txDone s)
    rcases txDone_cases s with ⟨b, -, he⟩ | ⟨-, he⟩ <;> rw [he] <;> exact ⟨hr, ht⟩
  | lineError pe fe bi b7 => exact ⟨hr, ht⟩

theorem lineStep_wf (l : LineStep) {s : State} (h : s.wf = true) : (lineStep l s).wf = true := by
  obtain ⟨hparams, hqueues, -⟩ := State.wf_iff.mp h
  have hsame := lineStep_sameOutsideLine l s
  exact State.wf_of_queuesBounded h hsame.params hsame.seq hsame.port hsame.result
    (lineStep_queuesBounded l (paramsWf_depths hparams).1 hqueues)

theorem hostPresent_wf (c : Command) {s : State} (h : s.wf = true) : (hostPresent c s).wf = true := by
  rcases hostPresent_cases c s with ⟨hidle, -, he⟩ | ⟨-, he⟩ <;> rw [he]
  · obtain ⟨-, -, -, hresult⟩ := State.wf_iff.mp h
    exact State.wf_of_idle h hidle rfl rfl rfl hresult
  · exact h

theorem platformReset_wf {s : State} (h : s.wf = true) : (platformReset s).wf = true :=
  State.afterReset_wf (State.wf_iff.mp h).1 _ _ _ _

end Sys2Proof.Machine
end

section
/-! Inside a command: what is true of every state between two accesses of one micro-program step, and the ways a
step can end. -/

namespace Sys2Proof.Machine

variable {p : Params} {i : Instr} {s : State}

/-- SEQ is executing `i`, at whatever label: all that a step of its micro-program keeps until it goes to the next
label or returns. -/
structure InCommand (p : Params) (i : Instr) (s : State) : Prop where
  params : s.params = p
  range : paramsWf p = true
  queues : QueuesBounded s
  busy : s.seq.phase = .busy
  word : decodeCommand s.seq.cmd = .ok i
  payload : payloadFits i s.seq.payload = true
  port : s.port = none
  result : s.result = none

/-- A well-formed state whose SEQ is BUSY is inside the command its word spells, at one of its labels. -/
theorem State.inCommand_of_wf_busy (h : s.wf = true) (hbusy : s.seq.phase = .busy) :
    ∃ i l, InCommand s.params i s ∧ s.seq.pc = some l ∧ l ∈ labelsOf s.params.getdivRestore i ∧
      slotsCounted i l s.seq = true := by
  obtain ⟨hparams, hqueues, hseq, -⟩ := State.wf_iff.mp h
  rcases State.seqWf_iff.mp hseq with ⟨hidle, -⟩ | ⟨l, -, hpc, hport, hresult, hrun⟩
  · rw [hbusy] at hidle
    cases hidle
  · obtain ⟨i, hword, hlabel, hpayload, hslots⟩ := Seq.running_iff.mp hrun
    exact ⟨i, l, ⟨rfl, hparams, hqueues, hbusy, hword, hpayload, hport, hresult⟩, hpc, hlabel, hslots⟩

/-! ### Between the accesses -/

theorem InCommand.access (h : InCommand p i s) (we : Bool) (off : BitVec 3) (wd : Byte) :
    InCommand p i (busAccess we off wd s) := by
  have hsame := busAccess_sameOutsideRegs we off wd s
  constructor
  case params => exact hsame.params.trans h.params
  case range => exact h.range
  case queues => exact busAccess_queuesBounded we off wd s h.queues
  case busy => exact hsame.seq ▸ h.busy
  case word => exact hsame.seq ▸ h.word
  case payload => exact hsame.seq ▸ h.payload
  case port => exact hsame.port.trans h.port
  case result => exact hsame.result.trans h.result

theorem InCommand.read (h : InCommand p i s) (off : BitVec 3) : InCommand p i (busRead off s) :=
  h.access false off 0#8

theorem InCommand.write (h : InCommand p i s) (off : BitVec 3) (v : Byte) : InCommand p i (busWrite off v s) :=
  h.access true off v

/-- Assignments to SEQ's working registers stay inside the command. -/
theorem InCommand.withSeq (h : InCommand p i s) {q : Seq} (hphase : q.phase = s.seq.phase) (hcmd : q.cmd = s.seq.cmd)
    (hpayload : q.payload = s.seq.payload) : InCommand p i { s with seq := q } :=
  { h with
    queues := h.queues
    busy := hphase.trans h.busy
    word := hcmd ▸ h.word
    payload := hpayload ▸ h.payload }

theorem InCommand.readT (h : InCommand p i s) (off : BitVec 3) : InCommand p i (readIntoT off s) :=
  (h.read off).withSeq rfl rfl rfl

/-- A poll assigns `t`, and no other register of SEQ. -/
@[simp] theorem poll_seq (s : State) : (poll s).seq = { s.seq with t := s.regs.lsr } := by
  simp [poll, readIntoT]

/-! ### The ends of a step -/

/-- Going to a label of the command, with the slot counters as the label wants them. -/
theorem InCommand.goto_wf (h : InCommand p i s) {l : Label} (hl : l ∈ labelsOf p.getdivRestore i)
    (hslots : slotsCounted i l s.seq = true) : (s.goto l).wf = true := by
  have hrun : (s.goto l).seq.running (s.goto l).params.getdivRestore l = true :=
    Seq.running_iff.mpr ⟨i, h.word, by simpa [h.params] using hl, h.payload, by simpa using hslots⟩
  refine State.wf_iff.mpr ⟨by simpa [h.params] using h.range, h.queues, ?_, ?_⟩
  · exact State.seqWf_iff.mpr (.inr ⟨l, h.busy, rfl, h.port, h.result, hrun⟩)
  · simp [State.resultWf, h.result]

/-- Returning, with as many data bytes as the value says or none. -/
theorem InCommand.ret_wf (h : InCommand p i s) (st : Status) {v : Word} {data : List Byte}
    (hdata : data = [] ∨ v = BitVec.ofNat 32 data.length) : (s.ret st v data).wf = true := by
  refine State.wf_iff.mpr ⟨by simpa [h.params] using h.range, h.queues, rfl, ?_⟩
  have hcode := st.code_ne_three
  simpa [State.resultWf, hcode] using hdata

/-- `f` ends a step of `i` in a well-formed state, from wherever in the command it is applied. -/
def EndsStep (p : Params) (i : Instr) (f : State → State) : Prop :=
  ∀ u, InCommand p i u → (f u).wf = true

/-- A label without a rule on the slot counters can be gone to from anywhere in the command. -/
theorem endsStep_goto {l : Label} (hl : l ∈ labelsOf p.getdivRestore i) (hfree : ∀ q, slotsCounted i l q = true) :
    EndsStep p i (State.goto l) :=
  fun _ hu => hu.goto_wf hl (hfree _)

/-- A return without data is possible from anywhere in the command. -/
theorem endsStep_ret (st : Status) (v : State → Word) : EndsStep p i (fun u => u.ret st (v u) []) :=
  fun _ hu => hu.ret_wf st (.inl rfl)

theorem endsStep_retOk : EndsStep p i State.retOk := endsStep_ret .ok fun _ => 0#32

theorem endsStep_retWouldBlock : EndsStep p i State.retWouldBlock := endsStep_ret .wouldBlock fun _ => 0#32

/-- A step that ends in one of two ways by a test ends well when both do. -/
theorem EndsStep.ite {f g : State → State} (hf : EndsStep p i f) (hg : EndsStep p i g) (c : State → Bool) :
    EndsStep p i (fun u => if c u then f u else g u) := by
  intro u hu
  show (if c u then f u else g u).wf = true
  split
  · exact hf u hu
  · exact hg u hu

/-- `s <- BusRead(OFF_LCR)` and the way to the next label. -/
theorem InCommand.readIntoS_wf (h : InCommand p i s) {l : Label} (hnext : EndsStep p i (State.goto l)) :
    (readIntoS l s).wf = true := by
  have hsaved : InCommand p i
      { busRead offLcr s with seq := { (busRead offLcr s).seq with s := (busRead offLcr s).rd } } :=
    (h.read offLcr).withSeq rfl rfl rfl
  exact (hnext _ hsaved :)

end Sys2Proof.Machine
end

section
/-! The micro-programs: each command, started at its first label, takes a step at each of its labels, and the step
ends in a well-formed state. -/

namespace Sys2Proof.Machine

variable {p : Params} {i : Instr} {s : State}

/-- The step answers a well-formed state. -/
def AnswersWf (o : Option State) : Prop := ∃ t, o = some t ∧ t.wf = true

theorem answersWf_some {t : State} (h : t.wf = true) : AnswersWf (some t) := ⟨t, rfl, h⟩

/-- `body`, started at `first`, is a micro-program of `i` that is never stuck and never leaves the well-formed
states. -/
structure SafeProgram (i : Instr) (first : Label) (body : Label → State → Option State) : Prop where
  first_mem : ∀ restore, first ∈ labelsOf restore i
  first_free : ∀ q, slotsCounted i first q = true
  step_wf : ∀ p l s, InCommand p i s → l ∈ labelsOf p.getdivRestore i → slotsCounted i l s.seq = true →
    AnswersWf (body l s)

/-! ### The steps that several micro-programs share -/

theorem setdivSteps_wf {d : Half} {after : State → State} {l : Label} (h : InCommand p i s)
    (hl : l ∈ [Label.lcrSave, .latchOpen, .divLow, .divHigh, .lcrRestore])
    (hgoto : ∀ l' ∈ [Label.latchOpen, .divLow, .divHigh, .lcrRestore], EndsStep p i (State.goto l'))
    (hafter : EndsStep p i after) : AnswersWf (setdivSteps d after l s) := by
  simp only [List.forall_mem_cons] at hgoto
  obtain ⟨hopen, hlow, hhigh, hrestore, -⟩ := hgoto
  fin_cases hl
  · exact answersWf_some (h.readIntoS_wf hopen)
  · exact answersWf_some (hlow _ (h.write _ _))
  · exact answersWf_some (hhigh _ (h.write _ _))
  · exact answersWf_some (hrestore _ (h.write _ _))
  · exact answersWf_some (hafter _ (h.write _ _))

theorem getdivSteps_wf {after : State → State} {l : Label} (h : InCommand p i s)
    (hl : l ∈ [Label.lcrSave, .latchOpen, .divLow, .divHigh] ++ if p.getdivRestore then [.lcrRestore] else [])
    (hgoto : ∀ l' ∈ [Label.latchOpen, .divLow, .divHigh] ++ if p.getdivRestore then [.lcrRestore] else [],
      EndsStep p i (State.goto l'))
    (hafter : EndsStep p i after) : AnswersWf (getdivSteps after l s) := by
  have hopen : EndsStep p i (State.goto .latchOpen) := hgoto _ (by simp)
  have hlow : EndsStep p i (State.goto .divLow) := hgoto _ (by simp)
  have hhigh : EndsStep p i (State.goto .divHigh) := hgoto _ (by simp)
  have hrestore (hr : s.params.getdivRestore = true) : EndsStep p i (State.goto .lcrRestore) :=
    hgoto _ (by simp [← h.params, hr])
  rcases List.mem_append.mp hl with hl | hl
  · fin_cases hl
    · exact answersWf_some (h.readIntoS_wf hopen)
    · exact answersWf_some (hlow _ (h.write _ _))
    · have hread : InCommand p i
          { busRead offA s with seq := { (busRead offA s).seq with lo := (busRead offA s).rd } } :=
        (h.read offA).withSeq rfl rfl rfl
      exact answersWf_some (hhigh _ hread :)
    · have hread : InCommand p i
          { busRead offB s with seq := { (busRead offB s).seq with hi := (busRead offB s).rd } } :=
        (h.read offB).withSeq rfl rfl rfl
      refine answersWf_some ?_
      split
      next hr => exact hrestore hr _ hread
      next => exact hafter _ hread
  · have hr : s.params.getdivRestore = true := by
      rw [h.params]
      by_contra hno
      simp [hno] at hl
    obtain rfl : l = .lcrRestore := by simpa [← h.params, hr] using hl
    have hbody : getdivSteps after .lcrRestore s = some (after (busWrite offLcr s.seq.s s)) := if_pos hr
    exact hbody ▸ answersWf_some (hafter _ (h.write _ _))

theorem setparSteps_wf {par : BitVec 3} {after : State → State} {l : Label} (h : InCommand p i s)
    (hlegal : parityLegal par = true) (hl : l ∈ [Label.parRead, .parWrite])
    (hnext : EndsStep p i (State.goto .parWrite)) (hafter : EndsStep p i after) :
    AnswersWf (setparSteps par after l s) := by
  fin_cases hl
  · exact answersWf_some (h.readIntoS_wf hnext)
  · obtain ⟨v, hv, -⟩ := setPar_legal s.seq.s par hlegal
    simpa only [setparSteps, hv] using answersWf_some (hafter _ (h.write offLcr v))

theorem setstopSteps_wf {k : BitVec 1} {after : State → State} {l : Label} (h : InCommand p i s)
    (hl : l ∈ [Label.stopRead, .stopWrite]) (hnext : EndsStep p i (State.goto .stopWrite))
    (hafter : EndsStep p i after) : AnswersWf (setstopSteps k after l s) := by
  fin_cases hl
  · exact answersWf_some (h.readIntoS_wf hnext)
  · exact answersWf_some (hafter _ (h.write _ _))

theorem setwlenSteps_wf {n : BitVec 2} {after : State → State} {l : Label} (h : InCommand p i s)
    (hl : l ∈ [Label.wlenRead, .wlenWrite]) (hnext : EndsStep p i (State.goto .wlenWrite))
    (hafter : EndsStep p i after) : AnswersWf (setwlenSteps n after l s) := by
  fin_cases hl
  · exact answersWf_some (h.readIntoS_wf hnext)
  · exact answersWf_some (hafter _ (h.write _ _))

/-- A poll, and what follows it by a test of the value just read. -/
theorem InCommand.poll_wf (h : InCommand p i s) {f g : State → State} (hf : EndsStep p i f) (hg : EndsStep p i g)
    (seen : Byte → Bool) :
    AnswersWf (some (if seen (poll s).seq.t then f (poll s) else g (poll s))) :=
  answersWf_some ((hf.ite hg fun u => seen u.seq.t) _ (h.readT offLsr))

/-! ### The configuration commands and raw access -/

/-- A micro-program of one access. -/
theorem SafeProgram.of_single {l : Label} {body : Label → State → Option State}
    (hlabels : ∀ restore, labelsOf restore i = [l]) (hfree : ∀ q, slotsCounted i l q = true)
    (hstep : ∀ p s, InCommand p i s → AnswersWf (body l s)) : SafeProgram i l body where
  first_mem restore := by rw [hlabels]; exact List.mem_singleton_self l
  first_free := hfree
  step_wf p l' s h hl' _ := by
    rw [hlabels, List.mem_singleton] at hl'
    exact hl' ▸ hstep p s h

/-- One read, whose byte the result is made from. -/
theorem InCommand.query_wf (h : InCommand p i s) (off : BitVec 3) (v : State → Word) :
    AnswersWf (some ((readIntoT off s).ret .ok (v (readIntoT off s)) [])) :=
  answersWf_some (endsStep_ret .ok v _ (h.readT off))

theorem getdiv_safe :
    SafeProgram .getdiv .lcrSave
      (getdivSteps fun u => u.ret .ok ((divOf u.seq.hi u.seq.lo).setWidth 32) []) where
  first_mem restore := by simp [labelsOf]
  first_free _ := rfl
  step_wf p l s h hl _ :=
    getdivSteps_wf h hl (fun _ hl' => endsStep_goto (List.mem_cons_of_mem _ hl') fun _ => rfl)
      (endsStep_ret .ok fun u => (divOf u.seq.hi u.seq.lo).setWidth 32)

theorem setdiv_safe (d : Half) : SafeProgram (.setdiv d) .lcrSave (setdivSteps d State.retOk) where
  first_mem restore := by simp [labelsOf]
  first_free _ := rfl
  step_wf p l s h hl _ :=
    setdivSteps_wf h hl (fun _ hl' => endsStep_goto (List.mem_cons_of_mem _ hl') fun _ => rfl) endsStep_retOk

theorem getpar_safe : SafeProgram .getpar .parRead getparStep :=
  .of_single (fun _ => rfl) (fun _ => rfl) fun _ _ h => h.query_wf offLcr fun u => (parDec u.seq.t).setWidth 32

theorem getstop_safe : SafeProgram .getstop .stopRead getstopStep :=
  .of_single (fun _ => rfl) (fun _ => rfl) fun _ _ h => h.query_wf offLcr fun u => (stb u.seq.t).setWidth 32

theorem getwlen_safe : SafeProgram .getwlen .wlenRead getwlenStep :=
  .of_single (fun _ => rfl) (fun _ => rfl) fun _ _ h => h.query_wf offLcr fun u => (wls u.seq.t).setWidth 32

theorem regrd_safe (off : BitVec 3) : SafeProgram (.regrd off) .rawAccess (regrdStep off) :=
  .of_single (fun _ => rfl) (fun _ => rfl) fun _ _ h => h.query_wf off fun u => u.seq.t.setWidth 32

theorem regwr_safe (off : BitVec 3) (v : Byte) : SafeProgram (.regwr off v) .rawAccess (regwrStep off v) :=
  .of_single (fun _ => rfl) (fun _ => rfl) fun _ _ h => answersWf_some (endsStep_retOk _ (h.write off v))

theorem setpar_safe (par : BitVec 3) : SafeProgram (.setpar par) .parRead (setparSteps par State.retOk) where
  first_mem restore := by simp [labelsOf]
  first_free _ := rfl
  step_wf p l s h hl _ :=
    setparSteps_wf h (decodeCommand_ok h.word).2 hl (endsStep_goto (by simp [labelsOf]) fun _ => rfl) endsStep_retOk

theorem setstop_safe (k : BitVec 1) : SafeProgram (.setstop k) .stopRead (setstopSteps k State.retOk) where
  first_mem restore := by simp [labelsOf]
  first_free _ := rfl
  step_wf p l s h hl _ := setstopSteps_wf h hl (endsStep_goto (by simp [labelsOf]) fun _ => rfl) endsStep_retOk

theorem setwlen_safe (n : BitVec 2) : SafeProgram (.setwlen n) .wlenRead (setwlenSteps n State.retOk) where
  first_mem restore := by simp [labelsOf]
  first_free _ := rfl
  step_wf p l s h hl _ := setwlenSteps_wf h hl (endsStep_goto (by simp [labelsOf]) fun _ => rfl) endsStep_retOk

/-- INIT is SETDIV, SETPAR, SETSTOP and SETWLEN one after the other (R78), each going on to the first label of the next. -/
theorem init_safe (hasdiv : BitVec 1) (par : BitVec 3) (k : BitVec 1) (n : BitVec 2) (d : Half) :
    SafeProgram (.init hasdiv par k n d) (if hasdiv = 1#1 then .lcrSave else .parRead)
      (initSteps hasdiv par k n d) where
  first_mem restore := by by_cases hd : hasdiv = 1#1 <;> simp [labelsOf, hd]
  first_free _ := rfl
  step_wf p l s h hl _ := by
    have hgoto (l' : Label) (hl' : l' ∈ labelsOf p.getdivRestore (.init hasdiv par k n d)) :
        EndsStep p (.init hasdiv par k n d) (State.goto l') := endsStep_goto hl' fun _ => rfl
    rcases List.mem_append.mp hl with hdiv | hfields
    · have hd : hasdiv = 1#1 := by
        by_contra hno
        simp [hno] at hdiv
      rw [if_pos hd] at hdiv
      have hbody : initSteps hasdiv par k n d l s = setdivSteps d (State.goto .parRead) l s := by
        fin_cases hdiv <;> exact if_pos hd
      rw [hbody]
      refine setdivSteps_wf h hdiv (fun l' hl' => hgoto l' ?_) (hgoto _ (by simp [labelsOf]))
      exact List.mem_append_left _ (by rw [if_pos hd]; exact List.mem_cons_of_mem _ hl')
    · have hpar (l' : Label) (hl' : l' ∈ [Label.parRead, .parWrite]) :
          AnswersWf (setparSteps par (State.goto .stopRead) l' s) :=
        setparSteps_wf h (decodeCommand_ok h.word).2 hl' (hgoto _ (by simp [labelsOf])) (hgoto _ (by simp [labelsOf]))
      have hstop (l' : Label) (hl' : l' ∈ [Label.stopRead, .stopWrite]) :
          AnswersWf (setstopSteps k (State.goto .wlenRead) l' s) :=
        setstopSteps_wf h hl' (hgoto _ (by simp [labelsOf])) (hgoto _ (by simp [labelsOf]))
      have hwlen (l' : Label) (hl' : l' ∈ [Label.wlenRead, .wlenWrite]) :
          AnswersWf (setwlenSteps n State.retOk l' s) :=
        setwlenSteps_wf h hl' (hgoto _ (by simp [labelsOf])) endsStep_retOk
      fin_cases hfields
      · exact hpar .parRead (by decide)
      · exact hpar .parWrite (by decide)
      · exact hstop .stopRead (by decide)
      · exact hstop .stopWrite (by decide)
      · exact hwlen .wlenRead (by decide)
      · exact hwlen .wlenWrite (by decide)

/-- GETCFG is GETDIV and the three LCR reads (R79). -/
theorem getcfg_safe : SafeProgram .getcfg .lcrSave getcfgSteps where
  first_mem restore := by simp [labelsOf]
  first_free _ := rfl
  step_wf p l s h hl _ := by
    have hgoto (l' : Label) (hl' : l' ∈ labelsOf p.getdivRestore .getcfg) : EndsStep p .getcfg (State.goto l') :=
      endsStep_goto hl' fun _ => rfl
    rcases List.mem_append.mp hl with hdiv | hfields
    · have hbody : getcfgSteps l s = getdivSteps (State.goto .parRead) l s := by
        rcases List.mem_append.mp hdiv with hl' | hl'
        · fin_cases hl' <;> rfl
        · obtain rfl : l = .lcrRestore := by
            by_contra hno
            cases hr : p.getdivRestore <;> simp [hr, hno] at hl'
          rfl
      rw [hbody]
      exact getdivSteps_wf h hdiv (fun l' hl' => hgoto l' (List.mem_append_left _ (List.mem_cons_of_mem _ hl')))
        (hgoto _ (by simp [labelsOf]))
    · have hread : InCommand p .getcfg (readIntoT offLcr s) := h.readT offLcr
      fin_cases hfields
      · have hfield : InCommand p .getcfg
            { readIntoT offLcr s with
              seq := { (readIntoT offLcr s).seq with p := parDec (readIntoT offLcr s).seq.t } } :=
          hread.withSeq rfl rfl rfl
        exact answersWf_some (hgoto .stopRead (by simp [labelsOf]) _ hfield :)
      · have hfield : InCommand p .getcfg
            { readIntoT offLcr s with
              seq := { (readIntoT offLcr s).seq with k := stb (readIntoT offLcr s).seq.t } } :=
          hread.withSeq rfl rfl rfl
        exact answersWf_some (hgoto .wlenRead (by simp [labelsOf]) _ hfield :)
      · exact h.query_wf offLcr fun u => packConfig (divOf u.seq.hi u.seq.lo) u.seq.p u.seq.k (wls u.seq.t)

/-! ### READ and WRITE: the slot counters -/

/-- In READ's loop the index is below `LEN`, as many slots are done as it says, and a byte is held for each (R82). -/
theorem slotsCounted_read_iff {len : Half} {l : Label} {q : Seq} (hl : l ≠ .start) :
    slotsCounted (.read len) l q = true ↔ q.i < len ∧ q.cnt = q.i ∧ q.out.length = q.i.toNat := by
  simp [slotsCounted, hl, and_assoc]

/-- In WRITE's loop the index is below `LEN`, and as many slots are done as it says (R83). -/
theorem slotsCounted_write_iff {len : Half} {l : Label} {q : Seq} (hl : l ≠ .start) :
    slotsCounted (.write len) l q = true ↔ q.i < len ∧ q.cnt = q.i := by
  simp [slotsCounted, hl]

/-- The slot index, below `LEN`, does not wrap when it is counted up. -/
theorem toNat_slot_succ {n len : Half} (h : n < len) : (n + 1#16).toNat = n.toNat + 1 := by
  bv_omega

theorem readReturn_wf {len : Half} (h : InCommand p (.read len) s) (hcnt : s.seq.cnt = s.seq.i)
    (hout : s.seq.out.length = s.seq.i.toNat) : (readReturn s).wf = true :=
  h.ret_wf .ok (.inr (by rw [hcnt, hout, BitVec.ofNat_toNat]))

theorem readLoop_wf {len : Half} (h : InCommand p (.read len) s) (hcnt : s.seq.cnt = s.seq.i)
    (hout : s.seq.out.length = s.seq.i.toNat) : (readLoop len s).wf = true := by
  unfold readLoop
  split
  · rename_i hlt
    exact h.goto_wf (by simp [labelsOf]) ((slotsCounted_read_iff (by decide)).mpr ⟨hlt, hcnt, hout⟩)
  · exact readReturn_wf h hcnt hout

theorem read_safe (len : Half) : SafeProgram (.read len) .start (readSteps len) where
  first_mem restore := by simp [labelsOf]
  first_free _ := rfl
  step_wf p l s h hl hslots := by
    fin_cases hl
    · exact answersWf_some (readLoop_wf (h.withSeq rfl rfl rfl) rfl rfl)
    · obtain ⟨hlt, hcnt, hout⟩ := (slotsCounted_read_iff (by decide)).mp hslots
      have hpoll : InCommand p (.read len) (poll s) := h.readT offLsr
      refine answersWf_some ?_
      split
      · exact hpoll.goto_wf (by simp [labelsOf]) (by simpa [slotsCounted] using hslots)
      · exact readReturn_wf hpoll (by simpa using hcnt) (by simpa using hout)
    · obtain ⟨hlt, hcnt, hout⟩ := (slotsCounted_read_iff (by decide)).mp hslots
      refine answersWf_some (readLoop_wf ((h.read offA).withSeq rfl rfl rfl) ?_ ?_)
      · simp [hcnt]
      · simp [hout, toNat_slot_succ hlt]

theorem writeReturn_wf (h : InCommand p i s) : (writeReturn s).wf = true := h.ret_wf .ok (.inl rfl)

theorem writeLoop_wf {len : Half} (h : InCommand p (.write len) s) (hcnt : s.seq.cnt = s.seq.i) :
    (writeLoop len s).wf = true := by
  unfold writeLoop
  split
  · rename_i hlt
    exact h.goto_wf (by simp [labelsOf]) ((slotsCounted_write_iff (by decide)).mpr ⟨hlt, hcnt⟩)
  · exact writeReturn_wf h

/-- The payload of a running WRITE has a byte for every slot below `LEN` (R99). -/
theorem InCommand.payload_slot {len : Half} (h : InCommand p (.write len) s) (hlt : s.seq.i < len) :
    ∃ b, s.seq.payload[s.seq.i.toNat]? = some b := by
  have hlen : s.seq.payload.length = len.toNat := by simpa [payloadFits, Instr.payloadLength] using h.payload
  exact ⟨_, List.getElem?_eq_getElem (by rw [hlen]; exact hlt)⟩

theorem write_safe (len : Half) : SafeProgram (.write len) .start (writeSteps len) where
  first_mem restore := by simp [labelsOf]
  first_free _ := rfl
  step_wf p l s h hl hslots := by
    fin_cases hl
    · exact answersWf_some (writeLoop_wf (h.withSeq rfl rfl rfl) rfl)
    · have hpoll : InCommand p (.write len) (poll s) := h.readT offLsr
      refine answersWf_some ?_
      split
      · exact hpoll.goto_wf (by simp [labelsOf]) (by simpa [slotsCounted] using hslots)
      · exact writeReturn_wf hpoll
    · obtain ⟨hlt, hcnt⟩ := (slotsCounted_write_iff (by decide)).mp hslots
      obtain ⟨b, hb⟩ := h.payload_slot hlt
      have hend : (writeLoop len
          { busWrite offA b s with
            seq := { (busWrite offA b s).seq with
              cnt := (busWrite offA b s).seq.cnt + 1#16, i := (busWrite offA b s).seq.i + 1#16 } }).wf = true :=
        writeLoop_wf ((h.write offA b).withSeq rfl rfl rfl) (by simp [hcnt])
      simpa only [writeSteps, hb] using answersWf_some hend

/-! ### The other polled commands -/

theorem flush_safe : SafeProgram .flush .poll flushSteps where
  first_mem restore := by simp [labelsOf]
  first_free _ := rfl
  step_wf p l s h hl _ := by
    have hspin : EndsStep p .flush (State.goto .spin) := endsStep_goto (by simp [labelsOf]) fun _ => rfl
    have hpoll : EndsStep p .flush (State.goto .poll) := endsStep_goto (by simp [labelsOf]) fun _ => rfl
    fin_cases hl
    · exact h.poll_wf endsStep_retOk hspin polledTemt
    · exact answersWf_some (hpoll s h)

theorem rdnb_safe : SafeProgram .rdnb .poll rdnbSteps where
  first_mem restore := by simp [labelsOf]
  first_free _ := rfl
  step_wf p l s h hl _ := by
    have hdata : EndsStep p .rdnb (State.goto .data) := endsStep_goto (by simp [labelsOf]) fun _ => rfl
    fin_cases hl
    · exact h.poll_wf hdata endsStep_retWouldBlock polledDr
    · exact answersWf_some (endsStep_ret .ok (fun u => u.rd.setWidth 32) _ (h.read offA))

theorem wrnb_safe (b : Byte) : SafeProgram (.wrnb b) .poll (wrnbSteps b) where
  first_mem restore := by simp [labelsOf]
  first_free _ := rfl
  step_wf p l s h hl _ := by
    have hdata : EndsStep p (.wrnb b) (State.goto .data) := endsStep_goto (by simp [labelsOf]) fun _ => rfl
    fin_cases hl
    · exact h.poll_wf hdata endsStep_retWouldBlock polledThre
    · exact answersWf_some (endsStep_retOk _ (h.write offA b))

theorem flnb_safe : SafeProgram .flnb .poll flnbStep :=
  .of_single (fun _ => rfl) (fun _ => rfl) fun _ _ h => h.poll_wf endsStep_retOk endsStep_retWouldBlock polledTemt

theorem rdrdy_safe : SafeProgram .rdrdy .poll rdrdyStep :=
  .of_single (fun _ => rfl) (fun _ => rfl) fun _ _ h =>
    h.query_wf offLsr fun u => (BitVec.ofBool (polledDr u.seq.t)).setWidth 32

theorem wrrdy_safe : SafeProgram .wrrdy .poll wrrdyStep :=
  .of_single (fun _ => rfl) (fun _ => rfl) fun _ _ h =>
    h.query_wf offLsr fun u => (BitVec.ofBool (polledThre u.seq.t)).setWidth 32

/-- Every command is executed by a safe micro-program. -/
theorem exec_safeProgram {i : Instr} (h : i.isCommand = true) :
    ∃ first body, SafeProgram i first body ∧ ∀ s, exec i s = micro i first body s := by
  cases i
  case getdiv => exact ⟨_, _, getdiv_safe, fun _ => rfl⟩
  case setdiv d => exact ⟨_, _, setdiv_safe d, fun _ => rfl⟩
  case getpar => exact ⟨_, _, getpar_safe, fun _ => rfl⟩
  case setpar par => exact ⟨_, _, setpar_safe par, fun _ => rfl⟩
  case getstop => exact ⟨_, _, getstop_safe, fun _ => rfl⟩
  case setstop k => exact ⟨_, _, setstop_safe k, fun _ => rfl⟩
  case getwlen => exact ⟨_, _, getwlen_safe, fun _ => rfl⟩
  case setwlen n => exact ⟨_, _, setwlen_safe n, fun _ => rfl⟩
  case init hasdiv par k n d => exact ⟨_, _, init_safe hasdiv par k n d, fun _ => rfl⟩
  case getcfg => exact ⟨_, _, getcfg_safe, fun _ => rfl⟩
  case read len => exact ⟨_, _, read_safe len, fun _ => rfl⟩
  case write len => exact ⟨_, _, write_safe len, fun _ => rfl⟩
  case flush => exact ⟨_, _, flush_safe, fun _ => rfl⟩
  case rdnb => exact ⟨_, _, rdnb_safe, fun _ => rfl⟩
  case wrnb b => exact ⟨_, _, wrnb_safe b, fun _ => rfl⟩
  case flnb => exact ⟨_, _, flnb_safe, fun _ => rfl⟩
  case rdrdy => exact ⟨_, _, rdrdy_safe, fun _ => rfl⟩
  case wrrdy => exact ⟨_, _, wrrdy_safe, fun _ => rfl⟩
  case regrd off => exact ⟨_, _, regrd_safe off, fun _ => rfl⟩
  case regwr off v => exact ⟨_, _, regwr_safe off v, fun _ => rfl⟩
  all_goals cases h

end Sys2Proof.Machine
end

section
/-! Every step from a well-formed state answers a well-formed state: SEQ's step by the micro-programs, any other by
what it can change. -/

namespace Sys2Proof.Machine

variable {s : State}

theorem State.reject_wf (h : s.wf = true) (hidle : s.seq.phase = .idle) : s.reject.wf = true :=
  State.wf_of_idle h hidle rfl rfl rfl rfl

/-- A legal command starts inside itself, at its first label (R99). -/
theorem SafeProgram.begin_wf {i : Instr} {first : Label} {body : Label → State → Option State} {c : Command}
    (hsafe : SafeProgram i first body) (h : s.wf = true) (hword : decodeCommand c.word = .ok i)
    (hpayload : payloadFits i c.payload = true) : (s.begin c first).wf = true := by
  obtain ⟨hparams, hqueues, -⟩ := State.wf_iff.mp h
  have hstarted : InCommand s.params i (s.begin c first) :=
    ⟨rfl, hparams, hqueues, rfl, hword, hpayload, rfl, rfl⟩
  exact hstarted.goto_wf (hsafe.first_mem _) (hsafe.first_free _)

/-- One step of a command with a safe micro-program, when SEQ works on a word that spells it. -/
theorem SafeProgram.micro_wf {i : Instr} {first : Label} {body : Label → State → Option State} {c : Word}
    (hsafe : SafeProgram i first body) (h : s.wf = true) (hword : s.fetchWord = some c)
    (hdec : decodeCommand c = .ok i) : ∃ t, micro i first body s = .next t ∧ t.wf = true := by
  cases hphase : s.seq.phase
  case idle =>
    refine ⟨_, micro_idle i first body s hphase, ?_⟩
    rcases accept_cases i first s with ⟨-, he⟩ | ⟨cmd, hport, -, hpayload, he⟩ | ⟨cmd, -, -, he⟩ <;> rw [he]
    · exact h
    · rw [State.fetchWord_idle hphase hport] at hword
      cases hword
      exact hsafe.begin_wf h hdec hpayload
    · exact s.reject_wf h hphase
  case busy =>
    rw [State.fetchWord_busy hphase] at hword
    cases hword
    obtain ⟨j, l, hin, hpc, hlabel, hslots⟩ := State.inCommand_of_wf_busy h hphase
    obtain rfl : j = i := by
      have hj := hin.word
      rw [hdec] at hj
      cases hj
      rfl
    obtain ⟨t, ht, hwf⟩ := hsafe.step_wf _ l s hin hlabel hslots
    exact ⟨t, micro_busy hphase hpc ht, hwf⟩

/-- SEQ is never stuck: what it has latched is a command at one of its labels (R36). -/
theorem seqStep_wf (h : s.wf = true) : ∃ t, seqStep s = .next t ∧ t.wf = true := by
  cases hword : s.fetchWord with
  | none => exact ⟨s, by simp only [seqStep, hword], h⟩
  | some c =>
    cases hdec : decodeCommand c with
    | ok i =>
      obtain ⟨first, body, hsafe, hexec⟩ := exec_safeProgram (decodeCommand_ok hdec).1
      rw [seqStep_of_decodeCommand_ok hword hdec, hexec]
      exact hsafe.micro_wf h hword hdec
    | error e =>
      cases hphase : s.seq.phase
      case idle => exact ⟨s.reject, by simp only [seqStep, hword, hdec, hphase], s.reject_wf h hphase⟩
      case busy =>
        obtain ⟨i, -, hin, -⟩ := State.inCommand_of_wf_busy h hphase
        rw [State.fetchWord_busy hphase] at hword
        cases hword
        rw [hin.word] at hdec
        cases hdec

theorem takeMove_wf (m : Move) (h : s.wf = true) : ∃ t, takeMove m s = .next t ∧ t.wf = true := by
  cases m with
  | seq => exact seqStep_wf h
  | line l => exact ⟨_, rfl, lineStep_wf l h⟩
  | host c => exact ⟨_, rfl, hostPresent_wf c h⟩
  | reset => exact ⟨_, rfl, platformReset_wf h⟩

/-- Settles O55: an outside access can only change REGS, and keeps the queues' bounds; any other step is one agent's
move, and SEQ's is a step of a safe micro-program. -/
theorem stepFromWellFormedAnswersWellFormed : Obligations.StepFromWellFormedAnswersWellFormed := by
  intro s h
  cases hext : s.ext with
  | some a =>
    have hstep : step s = busStep a s.takeAccess := by simp only [step, machineStep, hext]
    rw [hstep]
    exact busStep_wf a h
  | none =>
    rw [step_of_ext_none hext]
    exact takeMove_wf _ h

end Sys2Proof.Machine
end

section
/-! Proofs about the address decode (R23, R26, R27, R30) and the answer to an access of an outside master. -/

namespace Sys2Proof

/-! ### Slots -/

theorem paramsWf_stride_pos {p : Params} (h : Machine.paramsWf p = true) : 0 < p.stride := by
  simp only [Machine.paramsWf, Bool.and_eq_true, Bool.or_eq_true, beq_iff_eq] at h
  omega

/-- One byte at a slot's address selects the slot (R23, R26). -/
theorem slotOffset_slotAddress {p : Params} (hstride : 0 < p.stride) (off : BitVec 3) (we : Bool) (wd : Byte) :
    slotOffset p { addr := slotAddress p off, width := 1, we := we, wd := wd } = some off := by
  have hslot : slotAddress p off - p.base = off.toNat * p.stride := Nat.add_sub_cancel_left ..
  have hle : p.base ≤ slotAddress p off := Nat.le_add_right ..
  have hmod : (slotAddress p off - p.base) % p.stride = 0 := by rw [hslot, Nat.mul_mod_left]
  have hdiv : (slotAddress p off - p.base) / p.stride = off.toNat := by rw [hslot, Nat.mul_div_cancel _ hstride]
  have hlt : off.toNat < 8 := off.isLt
  simp [slotOffset, hle, hmod, hdiv, hlt]

/-- Nothing else selects one: an access of another width, or at no slot's address. -/
theorem slotOffset_eq_none {p : Params} {a : BusAccess} (h : a.width = 1 → ∀ off, a.addr ≠ slotAddress p off) :
    slotOffset p a = none := by
  refine Option.eq_none_iff_forall_ne_some.mpr fun off hoff => ?_
  obtain ⟨hwidth, haddr⟩ := slotOffset_some hoff
  exact h hwidth off haddr

/-- A byte between two slots is at no slot's address (R27). -/
theorem slotAddress_add_ne {p : Params} {k : Nat} (hpos : 0 < k) (hlt : k < p.stride) (off off' : BitVec 3) :
    slotAddress p off + k ≠ slotAddress p off' := by
  intro h
  have hsum : k + p.stride * off.toNat = p.stride * off'.toNat := by
    simp only [slotAddress, Nat.mul_comm _ p.stride] at h
    omega
  have hmod := congrArg (· % p.stride) hsum
  simp only [Nat.add_mul_mod_self_left, Nat.mul_mod_right, Nat.mod_eq_of_lt hlt] at hmod
  omega

/-- The eight slots lie in the block (R30). -/
theorem slotAddress_in_block {p : Params} (hstride : 0 < p.stride) (off : BitVec 3) :
    p.base ≤ slotAddress p off ∧ slotAddress p off < p.base + 8 * p.stride := by
  have hlt : off.toNat * p.stride < 8 * p.stride := Nat.mul_lt_mul_of_pos_right off.isLt hstride
  simp only [slotAddress]
  omega

/-- An access of at least one byte reaches REGS when one of its bytes is the block's. -/
theorem reachesRegs_iff {p : Params} {a : BusAccess} (hstride : 0 < p.stride) (hwidth : 1 ≤ a.width) :
    reachesRegs p a = true ↔ ∃ k, k < a.width ∧ p.base ≤ a.addr + k ∧ a.addr + k < p.base + 8 * p.stride := by
  simp only [reachesRegs, Bool.and_eq_true, decide_eq_true_eq, Nat.max_eq_left hwidth]
  constructor
  · rintro ⟨hend, hstart⟩
    exact ⟨p.base - a.addr, by omega⟩
  · rintro ⟨k, hk, hstart, hend⟩
    omega

/-- Settles O3: a slot's address selects that slot, `slotOffset_some` says that nothing else selects one, and the
byte of the block that an access reaches is the first one at or after `BASE`. -/
theorem slotAddressesDecode : Obligations.SlotAddressesDecode := by
  intro p off we wd hparams
  have hstride := paramsWf_stride_pos hparams
  refine ⟨slotOffset_slotAddress hstride off we wd, fun k hpos hlt => ?_, fun addr width hwidth => ?_,
    fun addr hout => ?_, fun addr width hwidth => reachesRegs_iff hstride hwidth⟩
  · exact slotOffset_eq_none fun _ off' => slotAddress_add_ne hpos hlt off off'
  · exact slotOffset_eq_none fun h => absurd h hwidth
  · refine slotOffset_eq_none fun _ off' (haddr : addr = slotAddress p off') => ?_
    have hblock := slotAddress_in_block hstride off'
    omega

end Sys2Proof

namespace Sys2Proof.Machine

/-! ### An access on the bus -/

/-- An access on the bus is answered before any other move (log 8). -/
theorem step_of_ext_some {s : State} {a : BusAccess} (hext : s.ext = some a) :
    step s = busStep a s.takeAccess := by
  simp only [step, machineStep, hext]

/-- An access to a slot is answered by the operation its key selects (R38, R39). -/
theorem busStep_of_decodeKey_ok {a : BusAccess} {s : State} {off : BitVec 3} {i : Instr}
    (hslot : slotOffset s.params a = some off) (hkey : decodeKey (busKey s.dlab a.we off) a.wd = .ok i) :
    busStep a s = exec i s := by
  simp only [busStep, hslot, hkey]

/-- An access to a slot whose key selects nothing is undecoded (R62). -/
theorem busStep_of_decodeKey_error {a : BusAccess} {s : State} {off : BitVec 3} {e : DecodeError}
    (hslot : slotOffset s.params a = some off) (hkey : decodeKey (busKey s.dlab a.we off) a.wd = .error e) :
    busStep a s = .next (undecodedAccess a.we s) := by
  simp only [busStep, hslot, hkey]

/-- An access to no slot is undecoded when it reaches REGS (R26), and the platform's when not (R30). -/
theorem busStep_of_slotOffset_none {a : BusAccess} {s : State} (hslot : slotOffset s.params a = none) :
    busStep a s = .next (if reachesRegs s.params a then undecodedAccess a.we s else s) := by
  simp only [busStep, hslot]

/-- At the offsets without a register every key is undecoded, whatever DLAB and the direction (R62). -/
theorem decodeKey_undecodedOffset {off : BitVec 3} (h : off = 2#3 ∨ off = 4#3 ∨ off = 6#3 ∨ off = 7#3)
    (dlab we : Bool) (wd : Byte) : decodeKey (busKey dlab we off) wd = .error .undecodedOffset := by
  rcases h with rfl | rfl | rfl | rfl <;> cases dlab <;> cases we <;> rfl

/-- What an undecoded access changes: the fault mark, and on a read the byte returned, which is a draw (R62). -/
theorem undecodedAccess_eq (we : Bool) (s : State) :
    undecodedAccess we s =
      if we then { s with regs := { s.regs with faults := { s.regs.faults with badAccess := true } } }
      else
        { s with
          regs := { s.regs with faults := { s.regs.faults with badAccess := true } }
          rd := Config.draw s.draws
          draws := s.draws + 1 } := by
  cases we <;> rfl

/-- Settles O2: the step is the bus's answer, by whether the address selects a slot, whether the key selects an
operation, and whether the access reaches REGS. -/
theorem stepAnswersPresentedAccess : Obligations.StepAnswersPresentedAccess := by
  intro s a hext
  rw [step_of_ext_some hext]
  refine ⟨fun off i hslot hkey => busStep_of_decodeKey_ok hslot hkey, fun hslot hreach => ?_, fun hundecoded => ?_⟩
  · rw [busStep_of_slotOffset_none (s := s.takeAccess) hslot]
    simp [hreach, State.takeAccess]
  · have hanswer : busStep a s.takeAccess = .next (undecodedAccess a.we s.takeAccess) := by
      rcases hundecoded with ⟨hslot, hreach⟩ | ⟨off, hslot, hoff⟩
      · rw [busStep_of_slotOffset_none (s := s.takeAccess) hslot]
        simp [hreach]
      · exact busStep_of_decodeKey_error (s := s.takeAccess) hslot (decodeKey_undecodedOffset hoff _ _ _)
    rw [hanswer, undecodedAccess_eq]
    rfl

end Sys2Proof.Machine
end

section
/-! Proofs about LINE and the flags a poll reads (R33): what LINE does to RXQ, to the transmit path and to LCR. -/

namespace Sys2Proof.Machine

/-! ### What LINE does to the receive storage, the transmit path and LCR -/

/-- No byte leaves RXQ by LINE: a delivery appends one, or replaces the last one (R93). -/
theorem lineStep_rxq_length (l : LineStep) (s : State) :
    s.regs.rxq.length ≤ (lineStep l s).regs.rxq.length := by
  cases l with
  | rxDeliver b =>
    show _ ≤ (rxDeliver b s).regs.rxq.length
    rcases rxDeliver_cases b s with ⟨-, he⟩ | ⟨-, q, rfl | rfl, he⟩ <;> rw [he]
    · exact List.length_append ▸ Nat.le_add_right _ _
    · simp only [List.length_append, List.length_dropLast, List.length_singleton]
      omega
  | txLoad =>
    show _ ≤ (txLoad s).regs.rxq.length
    rcases txLoad_cases s with ⟨_, _, -, -, he⟩ | ⟨-, he⟩ <;> rw [he]
  | txDone =>
    show _ ≤ (txDone s).regs.rxq.length
    rcases txDone_cases s with ⟨_, -, he⟩ | ⟨-, he⟩ <;> rw [he]
  | lineError => exact le_rfl

/-- Along the transmit path LINE moves nothing, or TXQ's head to the idle shift register (R94), or the shift
register's byte to the wire (R95). -/
theorem lineStep_transmit_cases (l : LineStep) (s : State) :
    ((lineStep l s).regs.wire = s.regs.wire ∧ (lineStep l s).regs.tsr = s.regs.tsr ∧
      (lineStep l s).regs.txq = s.regs.txq) ∨
    (∃ b, (lineStep l s).regs.wire = s.regs.wire ∧ s.regs.tsr = none ∧ (lineStep l s).regs.tsr = some b ∧
      s.regs.txq = b :: (lineStep l s).regs.txq) ∨
    (∃ b, (lineStep l s).regs.wire = s.regs.wire ++ [b] ∧ s.regs.tsr = some b ∧ (lineStep l s).regs.tsr = none ∧
      (lineStep l s).regs.txq = s.regs.txq) := by
  cases l with
  | rxDeliver b =>
    refine .inl ?_
    rcases rxDeliver_cases b s with ⟨-, he⟩ | ⟨-, q, -, he⟩ <;> simp [lineStep, he]
  | txLoad =>
    rcases txLoad_cases s with ⟨b, rest, hq, ht, he⟩ | ⟨-, he⟩
    · exact .inr (.inl ⟨b, by simp [lineStep, he, hq, ht]⟩)
    · exact .inl (by simp [lineStep, he])
  | txDone =>
    rcases txDone_cases s with ⟨b, ht, he⟩ | ⟨-, he⟩
    · exact .inr (.inr ⟨b, by simp [lineStep, he, ht]⟩)
    · exact .inl (by simp [lineStep, he])
  | lineError => exact .inl ⟨rfl, rfl, rfl⟩

/-- LINE never writes LCR (R35, R92). -/
@[simp] theorem lineStep_lcr (l : LineStep) (s : State) : (lineStep l s).regs.lcr = s.regs.lcr := by
  cases l with
  | rxDeliver b => rcases rxDeliver_cases b s with ⟨-, he⟩ | ⟨-, q, -, he⟩ <;> simp [lineStep, he]
  | txLoad => rcases txLoad_cases s with ⟨_, _, -, -, he⟩ | ⟨-, he⟩ <;> simp [lineStep, he]
  | txDone => rcases txDone_cases s with ⟨_, -, he⟩ | ⟨-, he⟩ <;> simp [lineStep, he]
  | lineError => rfl

/-! ### The polled flags -/

/-- A received byte stays received. -/
theorem lineStep_dr {l : LineStep} {s : State} (h : s.regs.dr = true) : (lineStep l s).regs.dr = true := by
  rw [Regs.dr_eq_decide, decide_eq_true_eq] at h ⊢
  exact List.ne_nil_of_length_pos ((List.length_pos_of_ne_nil h).trans_le (lineStep_rxq_length l s))

/-- An empty TXQ stays empty: only a write to THR fills it. -/
theorem lineStep_thre {l : LineStep} {s : State} (h : s.regs.thre = true) : (lineStep l s).regs.thre = true := by
  rw [Regs.thre_eq_decide, decide_eq_true_eq] at h ⊢
  rcases lineStep_transmit_cases l s with ⟨-, -, hq⟩ | ⟨b, -, -, -, hq⟩ | ⟨b, -, -, -, hq⟩
  · exact hq.trans h
  · rw [h] at hq
    cases hq
  · exact hq.trans h

/-- A drained transmitter stays drained. -/
theorem lineStep_temt {l : LineStep} {s : State} (h : s.regs.temt = true) : (lineStep l s).regs.temt = true := by
  rw [Regs.temt_eq_decide, decide_eq_true_eq] at h ⊢
  obtain ⟨hempty, hidle⟩ := h
  rcases lineStep_transmit_cases l s with ⟨-, ht, hq⟩ | ⟨b, -, -, -, hq⟩ | ⟨b, -, hbusy, -, -⟩
  · exact ⟨hq.trans hempty, ht.trans hidle⟩
  · rw [hempty] at hq
    cases hq
  · rw [hidle] at hbusy
    cases hbusy

/-- What is on its way out keeps its bytes and their order, wherever each of them is. -/
theorem lineStep_sent (l : LineStep) (s : State) : (lineStep l s).regs.sent = s.regs.sent := by
  rcases lineStep_transmit_cases l s with ⟨hw, ht, hq⟩ | ⟨b, hw, hidle, ht, hq⟩ | ⟨b, hw, hbusy, ht, hq⟩
  · simp only [Regs.sent, hw, ht, hq]
  · simp [Regs.sent, hw, hidle, ht, hq]
  · simp [Regs.sent, hw, hbusy, ht, hq]

/-- Settles O52: a delivery never empties RXQ, and the two transmit steps take bytes off TXQ and the shift register
without losing one. -/
theorem lineKeepsPolledFlags : Obligations.LineKeepsPolledFlags := fun l s =>
  ⟨lineStep_dr, lineStep_thre, lineStep_temt, lineStep_sent l s, lineStep_rxq_length l s⟩

end Sys2Proof.Machine
end

section
/-! The micro-program of each command as one function: a command's execution is its acceptance at `firstLabel` and
the steps `microSteps`. -/

namespace Sys2Proof.Machine

/-- Where a command's micro-program starts. A bus operation has none, and its value here says nothing. -/
def firstLabel : Instr → Label
  | .getdiv | .setdiv _ | .getcfg => .lcrSave
  | .getpar | .setpar _ => .parRead
  | .getstop | .setstop _ => .stopRead
  | .getwlen | .setwlen _ => .wlenRead
  | .init h _ _ _ _ => if h = 1#1 then .lcrSave else .parRead
  | .read _ | .write _ => .start
  | .flush | .rdnb | .wrnb _ | .flnb | .rdrdy | .wrrdy => .poll
  | .regrd _ | .regwr _ _ => .rawAccess
  | .rbrRd | .thrWr _ | .dllRd | .dllWr _ | .ierRd | .ierWr _ | .dlmRd | .dlmWr _ | .lcrRd | .lcrWr _
  | .lsrRd | .lsrWr _ => .start

/-- The steps of a command's micro-program; a bus operation has none. -/
def microSteps : Instr → Label → State → Option State
  | .getdiv => getdivSteps fun u => u.ret .ok ((divOf u.seq.hi u.seq.lo).setWidth 32) []
  | .setdiv d => setdivSteps d State.retOk
  | .getpar => getparStep
  | .setpar p => setparSteps p State.retOk
  | .getstop => getstopStep
  | .setstop k => setstopSteps k State.retOk
  | .getwlen => getwlenStep
  | .setwlen n => setwlenSteps n State.retOk
  | .init h p k n d => initSteps h p k n d
  | .getcfg => getcfgSteps
  | .read len => readSteps len
  | .write len => writeSteps len
  | .flush => flushSteps
  | .rdnb => rdnbSteps
  | .wrnb b => wrnbSteps b
  | .flnb => flnbStep
  | .rdrdy => rdrdyStep
  | .wrrdy => wrrdyStep
  | .regrd off => regrdStep off
  | .regwr off v => regwrStep off v
  | .rbrRd | .thrWr _ | .dllRd | .dllWr _ | .ierRd | .ierWr _ | .dlmRd | .dlmWr _ | .lcrRd | .lcrWr _
  | .lsrRd | .lsrWr _ => fun _ _ => none

/-- A command is executed by its micro-program (R22, R99). -/
theorem exec_command {i : Instr} (h : i.isCommand = true) (s : State) :
    exec i s = micro i (firstLabel i) (microSteps i) s := by
  cases i
  case rbrRd | thrWr | dllRd | dllWr | ierRd | ierWr | dlmRd | dlmWr | lcrRd | lcrWr | lsrRd | lsrWr => cases h
  all_goals rfl

/-- What a step of SEQ can do: nothing or a rejection, the start of the presented command, or the step of the latched
command's micro-program at `pc`. -/
theorem seqStep_next {s t : State} (h : seqStep s = .next t) :
    t = s ∨ t = s.reject ∨
    (∃ c i, decodeCommand c.word = .ok i ∧ t = s.begin c (firstLabel i)) ∨
    (∃ i l, s.seq.phase = .busy ∧ s.seq.pc = some l ∧ decodeCommand s.seq.cmd = .ok i ∧
      microSteps i l s = some t) := by
  cases hword : s.fetchWord with
  | none =>
    simp only [seqStep, hword, Host.Outcome.next.injEq] at h
    exact .inl h.symm
  | some c =>
    cases hdec : decodeCommand c with
    | error e =>
      cases hphase : s.seq.phase <;> simp only [seqStep, hword, hdec, hphase] at h
      case idle =>
        injection h with h
        exact .inr (.inl h.symm)
      case busy => cases h
    | ok i =>
      rw [seqStep_of_decodeCommand_ok hword hdec, exec_command (decodeCommand_ok hdec).1] at h
      rcases micro_next h with ⟨hidle, rfl⟩ | ⟨l, hbusy, hpc, hstep⟩
      · rcases accept_cases i (firstLabel i) s with ⟨-, he⟩ | ⟨cmd, hport, -, -, he⟩ | ⟨cmd, -, -, he⟩
        · exact .inl he
        · rw [State.fetchWord_idle hidle hport] at hword
          cases hword
          exact .inr (.inr (.inl ⟨cmd, i, hdec, he⟩))
        · exact .inr (.inl he)
      · rw [State.fetchWord_busy hbusy] at hword
        cases hword
        exact .inr (.inr (.inr ⟨i, l, hbusy, hpc, hdec, hstep⟩))

end Sys2Proof.Machine
end

section
/-! Proof of R33 and R35 over every step of the block's own system: what a poll promises its data access, and DLAB
inside an open window. -/

namespace Sys2Proof.Machine

/-! ### The two facts -/

/-- What the poll of a command promises its data access: a received byte, or an empty TXQ (R33). -/
def polledFlag : Instr → Regs → Bool
  | .read _ | .rdnb => Regs.dr
  | .write _ | .wrnb _ => Regs.thre
  | _ => fun _ => true

/-- At a data access `pollHolds` is the promise of the command's poll. -/
theorem State.pollHolds_of_data {s : State} {i : Instr} (hphase : s.seq.phase = .busy) (hpc : s.seq.pc = some .data)
    (hword : decodeCommand s.seq.cmd = .ok i) : s.pollHolds = polledFlag i s.regs := by
  unfold State.pollHolds
  rw [hphase, hpc, hword]
  cases i <;> rfl

/-- Anywhere else `pollHolds` asks nothing. -/
theorem State.pollHolds_iff {s : State} :
    s.pollHolds = true ↔ ∀ i, s.seq.phase = .busy → s.seq.pc = some .data → decodeCommand s.seq.cmd = .ok i →
      polledFlag i s.regs = true := by
  refine ⟨fun h i hphase hpc hword => State.pollHolds_of_data hphase hpc hword ▸ h, fun h => ?_⟩
  by_cases hdata : s.seq.phase = .busy ∧ s.seq.pc = some .data
  · obtain ⟨hphase, hpc⟩ := hdata
    cases hword : decodeCommand s.seq.cmd with
    | ok i => exact (State.pollHolds_of_data hphase hpc hword).trans (h i hphase hpc hword)
    | error e =>
      unfold State.pollHolds
      rw [hphase, hpc, hword]
  · unfold State.pollHolds
    generalize s.seq.phase = phase, s.seq.pc = pc at hdata
    cases phase with
    | idle => rfl
    | busy =>
      cases pc with
      | none => rfl
      | some l =>
        cases l
        case data => exact absurd ⟨rfl, rfl⟩ hdata
        all_goals rfl

theorem State.windowOpen_iff {s : State} :
    s.windowOpen = true ↔ ∀ l, s.seq.phase = .busy → s.seq.pc = some l → l.inWindow = true → s.dlab = true := by
  unfold State.windowOpen
  split
  case h_1 l hphase hpc => cases h : l.inWindow <;> simp [hphase, hpc, h]
  case h_2 hidle => exact iff_of_true rfl fun l hphase hpc => (hidle l hphase hpc).elim

/-! ### Ways to keep them -/

/-- The two facts, in the block's own system. -/
structure OwnFacts (s : State) : Prop where
  ext : s.ext = none
  poll : s.pollHolds = true
  window : s.windowOpen = true

variable {s t : State} {l : Label} {i : Instr}

/-- They are facts about a command in flight. -/
theorem OwnFacts.of_idle (hext : s.ext = none) (hidle : s.seq.phase = .idle) : OwnFacts s where
  ext := hext
  poll := State.pollHolds_iff.mpr fun _ hbusy => by rw [hidle] at hbusy; cases hbusy
  window := State.windowOpen_iff.mpr fun _ hbusy => by rw [hidle] at hbusy; cases hbusy

/-- Away from a data access only an open window asks for something. -/
theorem OwnFacts.of_label (hext : s.ext = none) (hpc : s.seq.pc = some l) (hdata : l ≠ .data)
    (hwindow : l.inWindow = true → s.dlab = true) : OwnFacts s where
  ext := hext
  poll := State.pollHolds_iff.mpr fun _ _ hpc' => by rw [hpc] at hpc'; cases hpc'; exact absurd rfl hdata
  window := State.windowOpen_iff.mpr fun _ _ hpc' => by rw [hpc] at hpc'; cases hpc'; exact hwindow

/-- At a data access only the poll's promise is asked for. -/
theorem OwnFacts.of_data (hext : s.ext = none) (hpc : s.seq.pc = some .data)
    (hword : decodeCommand s.seq.cmd = .ok i) (hflag : polledFlag i s.regs = true) : OwnFacts s where
  ext := hext
  poll := State.pollHolds_iff.mpr fun _ _ _ hword' => by rw [hword] at hword'; cases hword'; exact hflag
  window := State.windowOpen_iff.mpr fun _ _ hpc' hopen => by rw [hpc] at hpc'; cases hpc'; cases hopen

/-- A move that leaves SEQ and DLAB, and clears neither DR nor THRE, keeps them. -/
theorem OwnFacts.of_seq_eq (h : OwnFacts s) (hext : t.ext = s.ext) (hseq : t.seq = s.seq) (hdlab : t.dlab = s.dlab)
    (hdr : s.regs.dr = true → t.regs.dr = true) (hthre : s.regs.thre = true → t.regs.thre = true) : OwnFacts t where
  ext := hext.trans h.ext
  poll := State.pollHolds_iff.mpr fun i hbusy hpc hword => by
    have hflag := State.pollHolds_iff.mp h.poll i (hseq ▸ hbusy) (hseq ▸ hpc) (hseq ▸ hword)
    cases i
    case read | rdnb => exact hdr hflag
    case write | wrnb => exact hthre hflag
    all_goals rfl
  window := State.windowOpen_iff.mpr fun l hbusy hpc hopen =>
    hdlab.trans (State.windowOpen_iff.mp h.window l (hseq ▸ hbusy) (hseq ▸ hpc) hopen)

/-! ### The ends of a step -/

/-- A label that asks nothing: no data access, and outside every window. -/
def Label.unconditional (l : Label) : Bool := l != .data && !l.inWindow

/-- `f` ends a step with both facts, wherever in the block's own system it is applied. -/
def EndsInFacts (f : State → State) : Prop := ∀ u, u.ext = none → OwnFacts (f u)

/-- A state at a label that asks nothing. -/
theorem OwnFacts.of_unconditional (hext : s.ext = none) (hpc : s.seq.pc = some l) (hl : l.unconditional = true) :
    OwnFacts s := by
  simp only [Label.unconditional, Bool.and_eq_true, bne_iff_ne, Bool.not_eq_true'] at hl
  obtain ⟨hdata, hwindow⟩ := hl
  exact .of_label hext hpc hdata fun hopen => by rw [hwindow] at hopen; cases hopen

theorem endsInFacts_goto (hl : l.unconditional = true) : EndsInFacts (State.goto l) :=
  fun _ hext => .of_unconditional hext rfl hl

theorem endsInFacts_ret (st : Status) (v : State → Word) (data : State → List Byte) :
    EndsInFacts fun u => u.ret st (v u) (data u) :=
  fun _ hext => .of_idle hext rfl

theorem endsInFacts_retOk : EndsInFacts State.retOk := endsInFacts_ret .ok (fun _ => 0#32) fun _ => []

theorem endsInFacts_retWouldBlock : EndsInFacts State.retWouldBlock :=
  endsInFacts_ret .wouldBlock (fun _ => 0#32) fun _ => []

theorem EndsInFacts.ite {f g : State → State} (hf : EndsInFacts f) (hg : EndsInFacts g) (c : State → Bool) :
    EndsInFacts fun u => if c u then f u else g u := by
  intro u hext
  show OwnFacts (if c u then f u else g u)
  split
  · exact hf u hext
  · exact hg u hext

theorem endsInFacts_readReturn : EndsInFacts readReturn :=
  endsInFacts_ret .ok (fun u => u.seq.cnt.setWidth 32) fun u => u.seq.out

theorem endsInFacts_writeReturn : EndsInFacts writeReturn :=
  endsInFacts_ret .ok (fun u => u.seq.cnt.setWidth 32) fun _ => []

theorem endsInFacts_readLoop (len : Half) : EndsInFacts (readLoop len) := by
  intro u hext
  unfold readLoop
  split
  · exact endsInFacts_goto rfl u hext
  · exact endsInFacts_readReturn u hext

theorem endsInFacts_writeLoop (len : Half) : EndsInFacts (writeLoop len) := by
  intro u hext
  unfold writeLoop
  split
  · exact endsInFacts_goto rfl u hext
  · exact endsInFacts_writeReturn u hext

/-! ### Steps that several micro-programs share -/

@[simp] theorem readIntoT_ext (off : BitVec 3) (s : State) : (readIntoT off s).ext = s.ext := busRead_ext off s

@[simp] theorem poll_ext (s : State) : (poll s).ext = s.ext := busRead_ext offLsr s

/-- No read, and no write to A or B, changes DLAB. -/
@[simp] theorem busRead_dlab (off : BitVec 3) (s : State) : (busRead off s).dlab = s.dlab :=
  congrArg dlabOf (busRead_regs_lcr off s)
@[simp] theorem busWrite_offA_dlab (v : Byte) (s : State) : (busWrite offA v s).dlab = s.dlab :=
  congrArg dlabOf (busWrite_offA_lcr v s)
@[simp] theorem busWrite_offB_dlab (v : Byte) (s : State) : (busWrite offB v s).dlab = s.dlab :=
  congrArg dlabOf (busWrite_offB_lcr v s)

/-- The write that opens the window sets DLAB (R69, R70). -/
@[simp] theorem busWrite_withLatch_dlab (v : Byte) (s : State) : (busWrite offLcr (withLatch v) s).dlab = true := by
  simp [State.dlab]

theorem readIntoS_ownFacts (hext : s.ext = none) (hl : l.unconditional = true) : OwnFacts (readIntoS l s) :=
  .of_unconditional ((busRead_ext offLcr s).trans hext) rfl hl

/-- SETDIV's steps: the write at `latchOpen` opens the window, and the two accesses inside it leave DLAB. -/
theorem setdivSteps_ownFacts {d : Half} {after : State → State} (hafter : EndsInFacts after) (hext : s.ext = none)
    (hwindow : l.inWindow = true → s.dlab = true) (h : setdivSteps d after l s = some t) : OwnFacts t := by
  cases l <;> cases h
  case lcrSave => exact readIntoS_ownFacts hext rfl
  case latchOpen =>
    exact .of_label ((busWrite_ext ..).trans hext) rfl (by decide) fun _ => busWrite_withLatch_dlab ..
  case divLow =>
    exact .of_label ((busWrite_ext ..).trans hext) rfl (by decide) fun _ =>
      (busWrite_offA_dlab ..).trans (hwindow rfl)
  case divHigh =>
    exact .of_label ((busWrite_ext ..).trans hext) rfl (by decide) fun _ =>
      (busWrite_offB_dlab ..).trans (hwindow rfl)
  case lcrRestore => exact hafter _ ((busWrite_ext ..).trans hext)

/-- GETDIV's steps likewise; its window ends with it when the saved LCR is not written back. -/
theorem getdivSteps_ownFacts {after : State → State} (hafter : EndsInFacts after) (hext : s.ext = none)
    (hwindow : l.inWindow = true → s.dlab = true) (h : getdivSteps after l s = some t) : OwnFacts t := by
  cases l
  case lcrSave =>
    cases h
    exact readIntoS_ownFacts hext rfl
  case latchOpen =>
    cases h
    exact .of_label ((busWrite_ext ..).trans hext) rfl (by decide) fun _ => busWrite_withLatch_dlab ..
  case divLow =>
    cases h
    exact .of_label ((busRead_ext ..).trans hext) rfl (by decide) fun _ => (busRead_dlab ..).trans (hwindow rfl)
  case divHigh =>
    cases h
    split
    · exact .of_label ((busRead_ext ..).trans hext) rfl (by decide) fun _ => (busRead_dlab ..).trans (hwindow rfl)
    · exact hafter _ ((busRead_ext ..).trans hext)
  case lcrRestore =>
    simp only [getdivSteps, Option.ite_none_right_eq_some, Option.some.injEq] at h
    obtain ⟨-, rfl⟩ := h
    exact hafter _ ((busWrite_ext ..).trans hext)
  all_goals cases h

theorem setparSteps_ownFacts {p : BitVec 3} {after : State → State} (hafter : EndsInFacts after) (hext : s.ext = none)
    (h : setparSteps p after l s = some t) : OwnFacts t := by
  cases l
  case parRead =>
    cases h
    exact readIntoS_ownFacts hext rfl
  case parWrite =>
    cases hv : setPar s.seq.s p <;> simp only [setparSteps, hv] at h <;> cases h
    exact hafter _ ((busWrite_ext ..).trans hext)
  all_goals cases h

theorem setstopSteps_ownFacts {k : BitVec 1} {after : State → State} (hafter : EndsInFacts after)
    (hext : s.ext = none) (h : setstopSteps k after l s = some t) : OwnFacts t := by
  cases l <;> cases h
  case stopRead => exact readIntoS_ownFacts hext rfl
  case stopWrite => exact hafter _ ((busWrite_ext ..).trans hext)

theorem setwlenSteps_ownFacts {n : BitVec 2} {after : State → State} (hafter : EndsInFacts after)
    (hext : s.ext = none) (h : setwlenSteps n after l s = some t) : OwnFacts t := by
  cases l <;> cases h
  case wlenRead => exact readIntoS_ownFacts hext rfl
  case wlenWrite => exact hafter _ ((busWrite_ext ..).trans hext)

theorem initSteps_ownFacts {h : BitVec 1} {p : BitVec 3} {k : BitVec 1} {n : BitVec 2} {d : Half}
    (hext : s.ext = none) (hwindow : l.inWindow = true → s.dlab = true) (ht : initSteps h p k n d l s = some t) :
    OwnFacts t := by
  cases l
  case parRead | parWrite =>
    simp only [initSteps] at ht
    exact setparSteps_ownFacts (endsInFacts_goto rfl) hext ht
  case stopRead | stopWrite =>
    simp only [initSteps] at ht
    exact setstopSteps_ownFacts (endsInFacts_goto rfl) hext ht
  case wlenRead | wlenWrite =>
    simp only [initSteps] at ht
    exact setwlenSteps_ownFacts endsInFacts_retOk hext ht
  case rawAccess | start | poll | data | spin => cases ht
  all_goals
    simp only [initSteps, Option.ite_none_right_eq_some] at ht
    exact setdivSteps_ownFacts (endsInFacts_goto rfl) hext hwindow ht.2

theorem getcfgSteps_ownFacts (hext : s.ext = none) (hwindow : l.inWindow = true → s.dlab = true)
    (h : getcfgSteps l s = some t) : OwnFacts t := by
  cases l
  case lcrSave | latchOpen | divLow | divHigh | lcrRestore =>
    exact getdivSteps_ownFacts (endsInFacts_goto (l := .parRead) rfl) hext hwindow h
  case parRead | stopRead =>
    cases h
    exact .of_unconditional ((readIntoT_ext ..).trans hext) rfl rfl
  case wlenRead =>
    cases h
    exact .of_idle ((readIntoT_ext ..).trans hext) rfl
  all_goals cases h

/-! ### Polls -/

/-- A poll leaves the flags it reads. -/
theorem poll_polledFlag (i : Instr) (s : State) : polledFlag i (poll s).regs = polledFlag i s.regs := by
  have hdr : (poll s).regs.dr = s.regs.dr := congrArg (fun q : List Byte => !q.isEmpty) (busRead_lsr_rxq s)
  have hthre : (poll s).regs.thre = s.regs.thre := congrArg List.isEmpty (busRead_lsr_txq s)
  cases i
  case read | rdnb => exact hdr
  case write | wrnb => exact hthre
  all_goals rfl

/-- A poll that tests the flag it promises goes to the data access with the promise kept. -/
theorem poll_ownFacts {seen : Byte → Bool} {g : State → State} (hext : s.ext = none)
    (hword : decodeCommand s.seq.cmd = .ok i) (hseen : ∀ r, seen r.lsr = polledFlag i r) (hg : EndsInFacts g) :
    OwnFacts (if seen (poll s).seq.t then (poll s).goto .data else g (poll s)) := by
  have hpolled : seen (poll s).seq.t = polledFlag i (poll s).regs := by simp [hseen, poll_polledFlag]
  split
  next hflag => exact .of_data ((poll_ext s).trans hext) rfl (by simpa using hword) (hpolled ▸ hflag)
  next => exact hg _ ((poll_ext s).trans hext)

theorem readSteps_ownFacts {len : Half} (hext : s.ext = none) (hword : decodeCommand s.seq.cmd = .ok (.read len))
    (h : readSteps len l s = some t) : OwnFacts t := by
  cases l <;> cases h
  case start => exact endsInFacts_readLoop len _ hext
  case poll => exact poll_ownFacts hext hword polledDr_lsr endsInFacts_readReturn
  case data => exact endsInFacts_readLoop len _ ((busRead_ext ..).trans hext)

theorem writeSteps_ownFacts {len : Half} (hext : s.ext = none) (hword : decodeCommand s.seq.cmd = .ok (.write len))
    (h : writeSteps len l s = some t) : OwnFacts t := by
  cases l
  case start =>
    cases h
    exact endsInFacts_writeLoop len _ hext
  case poll =>
    cases h
    exact poll_ownFacts hext hword polledThre_lsr endsInFacts_writeReturn
  case data =>
    cases hb : s.seq.payload[s.seq.i.toNat]? <;> simp only [writeSteps, hb] at h <;> cases h
    exact endsInFacts_writeLoop len _ ((busWrite_ext ..).trans hext)
  all_goals cases h

theorem flushSteps_ownFacts (hext : s.ext = none) (h : flushSteps l s = some t) : OwnFacts t := by
  cases l <;> cases h
  case poll =>
    exact endsInFacts_retOk.ite (endsInFacts_goto (l := .spin) rfl) (fun u => polledTemt u.seq.t) _
      ((poll_ext s).trans hext)
  case spin => exact endsInFacts_goto rfl _ hext

theorem rdnbSteps_ownFacts (hext : s.ext = none) (hword : decodeCommand s.seq.cmd = .ok .rdnb)
    (h : rdnbSteps l s = some t) : OwnFacts t := by
  cases l <;> cases h
  case poll => exact poll_ownFacts hext hword polledDr_lsr endsInFacts_retWouldBlock
  case data => exact .of_idle ((busRead_ext ..).trans hext) rfl

theorem wrnbSteps_ownFacts {b : Byte} (hext : s.ext = none) (hword : decodeCommand s.seq.cmd = .ok (.wrnb b))
    (h : wrnbSteps b l s = some t) : OwnFacts t := by
  cases l <;> cases h
  case poll => exact poll_ownFacts hext hword polledThre_lsr endsInFacts_retWouldBlock
  case data => exact .of_idle ((busWrite_ext ..).trans hext) rfl

theorem flnbStep_ownFacts (hext : s.ext = none) (h : flnbStep l s = some t) : OwnFacts t := by
  cases l <;> cases h
  exact endsInFacts_retOk.ite endsInFacts_retWouldBlock (fun u => polledTemt u.seq.t) _ ((poll_ext s).trans hext)

/-! ### Every step -/

/-- No command starts at a data access or inside a window. -/
theorem firstLabel_unconditional (i : Instr) : (firstLabel i).unconditional = true := by
  cases i
  case init h p k n d =>
    by_cases hdiv : h = 1#1
    · rw [firstLabel, if_pos hdiv]
      rfl
    · rw [firstLabel, if_neg hdiv]
      rfl
  all_goals rfl

/-- A step of a micro-program, with DLAB 1 if it is taken inside a window, ends with both facts. -/
theorem microSteps_ownFacts (hext : s.ext = none) (hword : decodeCommand s.seq.cmd = .ok i)
    (hwindow : l.inWindow = true → s.dlab = true) (h : microSteps i l s = some t) : OwnFacts t := by
  cases i
  case getdiv =>
    exact getdivSteps_ownFacts (endsInFacts_ret .ok (fun u => (divOf u.seq.hi u.seq.lo).setWidth 32) fun _ => [])
      hext hwindow h
  case setdiv => exact setdivSteps_ownFacts endsInFacts_retOk hext hwindow h
  case setpar => exact setparSteps_ownFacts endsInFacts_retOk hext h
  case setstop => exact setstopSteps_ownFacts endsInFacts_retOk hext h
  case setwlen => exact setwlenSteps_ownFacts endsInFacts_retOk hext h
  case init => exact initSteps_ownFacts hext hwindow h
  case getcfg => exact getcfgSteps_ownFacts hext hwindow h
  case read => exact readSteps_ownFacts hext hword h
  case write => exact writeSteps_ownFacts hext hword h
  case flush => exact flushSteps_ownFacts hext h
  case rdnb => exact rdnbSteps_ownFacts hext hword h
  case wrnb => exact wrnbSteps_ownFacts hext hword h
  case flnb => exact flnbStep_ownFacts hext h
  case getpar | getstop | getwlen | rdrdy | wrrdy | regrd =>
    cases l <;> cases h
    exact .of_idle ((readIntoT_ext ..).trans hext) rfl
  case regwr =>
    cases l <;> cases h
    exact .of_idle ((busWrite_ext ..).trans hext) rfl
  all_goals cases h

theorem seqStep_ownFacts (hs : OwnFacts s) (h : seqStep s = .next t) : OwnFacts t := by
  rcases seqStep_next h with rfl | rfl | ⟨c, i, -, rfl⟩ | ⟨i, l, hbusy, hpc, hword, hstep⟩
  · exact hs
  · exact hs.of_seq_eq rfl rfl rfl id id
  · exact .of_unconditional hs.ext rfl (firstLabel_unconditional i)
  · exact microSteps_ownFacts hs.ext hword (State.windowOpen_iff.mp hs.window l hbusy hpc) hstep

theorem takeMove_ownFacts {m : Move} (hs : OwnFacts s) (h : takeMove m s = .next t) : OwnFacts t := by
  cases m with
  | seq => exact seqStep_ownFacts hs h
  | line l =>
    cases h
    have hsame := lineStep_sameOutsideLine l s
    exact hs.of_seq_eq hsame.ext hsame.seq (congrArg dlabOf (lineStep_lcr l s)) lineStep_dr lineStep_thre
  | host c =>
    cases h
    rcases hostPresent_cases c s with ⟨-, -, he⟩ | ⟨-, he⟩ <;> rw [he]
    · exact hs.of_seq_eq rfl rfl rfl id id
    · exact hs
  | reset =>
    cases h
    exact .of_idle hs.ext rfl

/-- Settles O56: only a poll that saw its flag leads to a data access, the write that opens a window sets DLAB and no
access inside one clears it, and between SEQ's steps LINE clears neither flag and nobody writes LCR. -/
theorem stepKeepsPollAndWindowFacts : Obligations.StepKeepsPollAndWindowFacts := by
  intro s t _ hext hpoll hwindow hstep
  have hs : OwnFacts s := ⟨hext, hpoll, hwindow⟩
  have hadvanced : OwnFacts s.advance := hs.of_seq_eq rfl rfl rfl id id
  rw [step_of_ext_none hext] at hstep
  obtain ⟨hext', hpoll', hwindow'⟩ := takeMove_ownFacts hadvanced hstep
  exact ⟨hext', hpoll', hwindow'⟩

end Sys2Proof.Machine
end

section
/-! The fields of a command word (R40, R41), as bits taken out, put in and kept under a mask. -/

namespace Sys2Proof

/-- The `n` bits of a word from bit `k` up, all set. -/
def fieldMask (k n : Nat) : Word := (BitVec.allOnes n).setWidth 32 <<< k

/-- The encoder puts a field's value where the decoder reads it. -/
theorem extractLsb'_shiftLeft_same {k n : Nat} (d : BitVec n) (h : k + n ≤ 32) :
    (d.setWidth 32 <<< k).extractLsb' k n = d := by
  ext j hj
  simp [hj, show k + j < 32 by omega]

/-- A field's value shows in no other field. -/
theorem extractLsb'_shiftLeft_disjoint {k n i m : Nat} (d : BitVec n) (h : i + m ≤ k ∨ k + n ≤ i) :
    (d.setWidth 32 <<< k).extractLsb' i m = 0#m := by
  ext j hj
  have hout : i + j < k ∨ n ≤ i + j - k := by omega
  rcases hout with hlow | hhigh
  · simp [hlow]
  · simp [BitVec.getLsbD_of_ge d _ hhigh]

/-- A field put back in its place is the word under the field's mask. -/
theorem setWidth_extractLsb'_shiftLeft (c : Word) (k n : Nat) :
    (c.extractLsb' k n).setWidth 32 <<< k = c &&& fieldMask k n := by
  ext j hj
  by_cases hlow : j < k
  · simp [fieldMask, hlow]
  · have hin : k + (j - k) = j := by omega
    simp [fieldMask, hj, hlow, hin, Bool.and_comm]

/-- Two words have the same field exactly when they agree under the field's mask. -/
theorem extractLsb'_eq_iff {c c' : Word} {k n : Nat} (h : k + n ≤ 32) :
    c.extractLsb' k n = c'.extractLsb' k n ↔ c &&& fieldMask k n = c' &&& fieldMask k n := by
  rw [← setWidth_extractLsb'_shiftLeft, ← setWidth_extractLsb'_shiftLeft]
  constructor
  · intro hfield
    rw [hfield]
  · intro hword
    rw [← extractLsb'_shiftLeft_same (c.extractLsb' k n) h, hword, extractLsb'_shiftLeft_same _ h]

/-- A field is 0 exactly when the word is 0 under the field's mask. -/
theorem extractLsb'_eq_zero_iff {c : Word} {k n : Nat} (h : k + n ≤ 32) :
    c.extractLsb' k n = 0#n ↔ c &&& fieldMask k n = 0#32 := by
  simpa using extractLsb'_eq_iff (c' := 0#32) h

/-- Two words have the same opcode exactly when they agree in their low byte. -/
theorem opcodeOf_eq_iff {c c' : Word} :
    opcodeOf c = opcodeOf c' ↔ c &&& fieldMask 0 8 = c' &&& fieldMask 0 8 :=
  extractLsb'_eq_iff (by decide)

end Sys2Proof
end

section
/-! The command decoder as the opcode map (R43, R44): which words a row selects, and what such a word decodes to. -/

namespace Sys2Proof

/-! ### The rows of the opcode map -/

/-- What R43 prints of each row: the match word is an opcode alone, and the mask keeps the opcode. -/
theorem pattern_and_mask_of_mem : ∀ r ∈ opcodeRows,
    r.pattern &&& fieldMask 0 8 = r.pattern ∧ r.mask &&& fieldMask 0 8 = fieldMask 0 8 := by decide

/-- The twenty rows have twenty opcodes. -/
theorem eq_of_opcodeOf_pattern_eq : ∀ r ∈ opcodeRows, ∀ r' ∈ opcodeRows,
    opcodeOf r.pattern = opcodeOf r'.pattern → r = r' := by decide

/-- A command's row stands in the map. -/
theorem mem_opcodeRows_of_opcodeRow {i : Instr} {r : OpcodeRow} (h : opcodeRow i = some r) : r ∈ opcodeRows := by
  cases i <;> cases h <;> decide

/-- Every row of the map is some command's. -/
theorem exists_opcodeRow_of_mem {r : OpcodeRow} (h : r ∈ opcodeRows) : ∃ i, opcodeRow i = some r := by
  simp only [opcodeRows, List.mem_append, List.mem_filterMap] at h
  rcases h with ⟨i, -, hi⟩ | ⟨i, -, hi⟩ <;> exact ⟨i, hi⟩

/-- A row selects only words with its own opcode. -/
theorem opcodeOf_of_selects {r : OpcodeRow} {c : Word} (hr : r ∈ opcodeRows) (h : r.selects c = true) :
    opcodeOf c = opcodeOf r.pattern := by
  rw [OpcodeRow.selects, beq_iff_eq] at h
  rw [opcodeOf_eq_iff, ← h, BitVec.and_assoc, (pattern_and_mask_of_mem r hr).2]

/-- A word is its row's match word and the bits that the row's mask does not fix. -/
theorem eq_pattern_or_of_selects {r : OpcodeRow} {c : Word} (h : r.selects c = true) :
    c = r.pattern ||| c &&& ~~~r.mask := by
  rw [OpcodeRow.selects, beq_iff_eq] at h
  calc c = c &&& (r.mask ||| ~~~r.mask) := by rw [BitVec.or_not_self, BitVec.and_allOnes]
    _ = r.pattern ||| c &&& ~~~r.mask := by rw [BitVec.and_or_distrib_left, h]

/-- A row whose mask keeps the opcode and the bits of `reserved` selects a word with its opcode exactly when those bits
are 0. -/
theorem selects_iff_reserved {r : OpcodeRow} {c reserved : Word} (hr : r ∈ opcodeRows)
    (hop : opcodeOf c = opcodeOf r.pattern) (hdisjoint : fieldMask 0 8 &&& reserved = 0#32)
    (hmask : r.mask = fieldMask 0 8 ||| reserved) : r.selects c = true ↔ c &&& reserved = 0#32 := by
  have hpattern := (pattern_and_mask_of_mem r hr).1
  have hclear : r.pattern &&& reserved = 0#32 := by
    rw [← hpattern, BitVec.and_assoc, hdisjoint, BitVec.and_zero]
  have hmasked : c &&& r.mask = r.pattern ||| c &&& reserved := by
    rw [hmask, BitVec.and_or_distrib_left, opcodeOf_eq_iff.mp hop, hpattern]
  rw [OpcodeRow.selects, beq_iff_eq, hmasked]
  constructor
  · intro h
    have hbits := congrArg (· &&& reserved) h
    simpa [BitVec.and_or_distrib_right, BitVec.and_assoc, hclear] using hbits
  · intro h
    rw [h, BitVec.or_zero]

/-- The decoder's test of a format with one reserved field is the row's (R41, R43). -/
theorem reservedClear_eq_selects {r : OpcodeRow} {c : Word} {k n : Nat} (hr : r ∈ opcodeRows)
    (hop : opcodeOf c = opcodeOf r.pattern) (hformat : k + n ≤ 32 ∧ fieldMask 0 8 &&& fieldMask k n = 0#32 ∧
      r.mask = fieldMask 0 8 ||| fieldMask k n) : (c.extractLsb' k n == 0#n) = r.selects c := by
  obtain ⟨hwidth, hdisjoint, hmask⟩ := hformat
  rw [Bool.eq_iff_iff, beq_iff_eq, extractLsb'_eq_zero_iff hwidth, selects_iff_reserved hr hop hdisjoint hmask]

/-! ### The decoder as the opcode map -/

/-- The instruction with the operands that the fields of `c` spell in its format (R41). -/
def Instr.withOperandsOf (c : Word) : Instr → Instr
  | .setdiv _ => .setdiv (c.extractLsb' 8 16)
  | .setpar _ => .setpar (c.extractLsb' 8 3)
  | .setstop _ => .setstop (c.extractLsb' 8 1)
  | .setwlen _ => .setwlen (c.extractLsb' 8 2)
  | .init _ _ _ _ _ => .init (c.extractLsb' 8 1) (c.extractLsb' 9 3) (c.extractLsb' 12 1) (c.extractLsb' 13 2)
      (c.extractLsb' 16 16)
  | .read _ => .read (c.extractLsb' 8 16)
  | .write _ => .write (c.extractLsb' 8 16)
  | .wrnb _ => .wrnb (c.extractLsb' 8 8)
  | .regrd _ => .regrd (c.extractLsb' 8 3)
  | .regwr _ _ => .regwr (c.extractLsb' 8 3) (c.extractLsb' 16 8)
  | i => i

/-- A word with a row's opcode spells the row's command with the operands in its fields, and is checked by the row. -/
theorem decodeCommand_eq_checkCommand {c : Word} {i : Instr} {r : OpcodeRow} (hrow : opcodeRow i = some r)
    (hop : opcodeOf c = opcodeOf r.pattern) : decodeCommand c = checkCommand (r.selects c) (i.withOperandsOf c) := by
  have hr := mem_opcodeRows_of_opcodeRow hrow
  unfold decodeCommand
  cases i <;> cases hrow <;> rw [hop]
  case regwr off v =>
    have hreserved : (c.extractLsb' 11 5 == 0#5 && c.extractLsb' 24 8 == 0#8) =
        OpcodeRow.selects ⟨0x00000021, 0xFF00F8FF⟩ c := by
      rw [Bool.eq_iff_iff, selects_iff_reserved (reserved := fieldMask 11 5 ||| fieldMask 24 8) hr hop (by decide)
        (by decide), BitVec.and_or_distrib_left, BitVec.or_eq_zero_iff, Bool.and_eq_true, beq_iff_eq, beq_iff_eq,
        extractLsb'_eq_zero_iff (by decide), extractLsb'_eq_zero_iff (by decide)]
    exact congrArg (checkCommand · _) hreserved
  all_goals exact congrArg (checkCommand · _) (reservedClear_eq_selects hr hop (by decide))

/-- A word that decodes has the opcode of its instruction's row. -/
theorem opcodeRow_of_decodeCommand_ok {c : Word} {i : Instr} (h : decodeCommand c = .ok i) :
    ∃ r, opcodeRow i = some r ∧ opcodeOf c = opcodeOf r.pattern := by
  unfold decodeCommand at h
  split at h
  case h_21 => cases h
  all_goals
    obtain ⟨-, he, -⟩ := checkCommand_ok h
    subst he
    exact ⟨_, rfl, ‹opcodeOf c = _›⟩

/-- What a word decodes to: the command whose row selects it, with the operands in its fields, if they are legal. -/
theorem decodeCommand_eq_ok_iff {c : Word} {i : Instr} :
    decodeCommand c = .ok i ↔
      ∃ r, opcodeRow i = some r ∧ r.selects c = true ∧ i.withOperandsOf c = i ∧ i.wellFormed = true := by
  constructor
  · intro h
    obtain ⟨r, hrow, hop⟩ := opcodeRow_of_decodeCommand_ok h
    rw [decodeCommand_eq_checkCommand hrow hop] at h
    exact ⟨r, hrow, checkCommand_ok h⟩
  · rintro ⟨r, hrow, hsel, hoperands, hwf⟩
    have hop := opcodeOf_of_selects (mem_opcodeRows_of_opcodeRow hrow) hsel
    rw [decodeCommand_eq_checkCommand hrow hop, hoperands]
    exact checkCommand_of hsel hwf

/-! ### Commands, encoded and decoded -/

/-- A row keeps what the operand fields of its format leave: reading them and writing them back gives the word. -/
theorem encode_withOperandsOf {c : Word} {i : Instr} {r : OpcodeRow} (dlab : Bool) (hrow : opcodeRow i = some r)
    (h : r.selects c = true) : encode dlab (i.withOperandsOf c) = .command c := by
  refine Eq.trans ?_ (congrArg Encoded.command (eq_pattern_or_of_selects h).symm)
  cases i <;> cases hrow <;>
    simp only [Instr.withOperandsOf, encode, setWidth_extractLsb'_shiftLeft, BitVec.or_assoc,
      ← BitVec.and_or_distrib_left]
  case setdiv | setpar | setstop | setwlen | init | read | write | wrnb | regrd | regwr => rfl
  all_goals simp

/-- The fields of a command's word are the command's operands. -/
theorem withOperandsOf_encode {dlab : Bool} {i : Instr} {c : Word} (h : encode dlab i = .command c) :
    i.withOperandsOf c = i := by
  cases i <;> cases h
  case init | regwr =>
    simp [Instr.withOperandsOf, BitVec.extractLsb'_or, extractLsb'_shiftLeft_same, extractLsb'_shiftLeft_disjoint]
  case setdiv | setpar | setstop | setwlen | read | write | wrnb | regrd =>
    simp [Instr.withOperandsOf, BitVec.extractLsb'_or, extractLsb'_shiftLeft_same]
  all_goals rfl

/-- A command's word is selected by the command's row (R43). -/
theorem selects_encode {i : Instr} {r : OpcodeRow} (dlab : Bool) (hrow : opcodeRow i = some r) :
    ∃ c, encode dlab i = .command c ∧ r.selects c = true := by
  have h : Laws.Row.Statement i := by
    cases i
    exacts [Laws.Row.getdiv, Laws.Row.setdiv _, Laws.Row.getpar, Laws.Row.setpar _, Laws.Row.getstop,
      Laws.Row.setstop _, Laws.Row.getwlen, Laws.Row.setwlen _, Laws.Row.init _ _ _ _ _, Laws.Row.getcfg,
      Laws.Row.read _, Laws.Row.write _, Laws.Row.flush, Laws.Row.rdnb, Laws.Row.wrnb _, Laws.Row.flnb,
      Laws.Row.rdrdy, Laws.Row.wrrdy, Laws.Row.regrd _, Laws.Row.regwr _ _, Laws.Row.rbrRd, Laws.Row.thrWr _,
      Laws.Row.dllRd, Laws.Row.dllWr _, Laws.Row.ierRd, Laws.Row.ierWr _, Laws.Row.dlmRd, Laws.Row.dlmWr _,
      Laws.Row.lcrRd, Laws.Row.lcrWr _, Laws.Row.lsrRd, Laws.Row.lsrWr _]
  unfold Laws.Row.Statement at h
  simpa only [hrow] using h dlab

/-! ### The operand limits of R44 -/

/-- What R44 (c) to (e) ask of a word, by its opcode. -/
def OperandLimits (c : Word) : Prop :=
  (opcodeOf c = 0x04#8 → (c.extractLsb' 8 3).toNat ≤ 4) ∧
  (opcodeOf c = 0x09#8 → (c.extractLsb' 9 3).toNat ≤ 4) ∧
  (opcodeOf c = 0x20#8 → (c.extractLsb' 8 3).toNat ∈ [0, 1, 3, 5]) ∧
  (opcodeOf c = 0x21#8 → (c.extractLsb' 8 3).toNat ∈ [0, 1, 3])

theorem parityLegal_iff (par : BitVec 3) : parityLegal par = true ↔ par.toNat ≤ 4 := by
  revert par; decide

theorem regrdOffsetLegal_iff (off : BitVec 3) : regrdOffsetLegal off = true ↔ off.toNat ∈ [0, 1, 3, 5] := by
  revert off; decide

theorem regwrOffsetLegal_iff (off : BitVec 3) : regwrOffsetLegal off = true ↔ off.toNat ∈ [0, 1, 3] := by
  revert off; decide

/-- The limits of a word are those of the operands it spells. -/
theorem wellFormed_withOperandsOf_iff {c : Word} {i : Instr} {r : OpcodeRow} (hrow : opcodeRow i = some r)
    (hop : opcodeOf c = opcodeOf r.pattern) : (i.withOperandsOf c).wellFormed = true ↔ OperandLimits c := by
  unfold OperandLimits
  rw [hop]
  cases i <;> cases hrow
  case setpar | init => simp [Instr.withOperandsOf, Instr.wellFormed, parityLegal_iff, opcodeOf]
  case regrd => simp [Instr.withOperandsOf, Instr.wellFormed, regrdOffsetLegal_iff, opcodeOf]
  case regwr => simp [Instr.withOperandsOf, Instr.wellFormed, regwrOffsetLegal_iff, opcodeOf]
  all_goals simp [Instr.withOperandsOf, Instr.wellFormed, opcodeOf]

end Sys2Proof
end

section
/-! The bus key (R38, R39, R62): its fields, and the operation it selects. -/

namespace Sys2Proof

/-- The fields of a key are what it is made of (R38). -/
theorem busKey_fields (dlab we : Bool) (off : BitVec 3) :
    (busKey dlab we off).extractLsb' 0 3 = off ∧ (busKey dlab we off).getLsbD 3 = we ∧
      (busKey dlab we off).getLsbD 4 = dlab := by
  revert dlab we off; decide

/-- A key is made of its fields. -/
theorem eq_busKey (key : BitVec 5) : key = busKey (key.getLsbD 4) (key.getLsbD 3) (key.extractLsb' 0 3) := by
  revert key; decide

/-- A key that decodes is the key of the operation it selects (R39). -/
theorem encode_of_decodeKey_busKey_ok {dlab we : Bool} {off : BitVec 3} {wd : Byte} {i : Instr}
    (h : decodeKey (busKey dlab we off) wd = .ok i) :
    i.isCommand = false ∧ encode dlab i = .access (busKey dlab we off) (if we then wd else 0#8) := by
  obtain ⟨hoff, hwe, hdlab⟩ := busKey_fields dlab we off
  rw [decodeKey, hoff, hwe, hdlab] at h
  split at h
  case h_13 => cases h
  all_goals
    cases h
    exact ⟨rfl, rfl⟩

/-- A bus operation's key selects it, at either DLAB where R39 marks it `x`. -/
theorem decode_encode_of_opcodeRow_none {i : Instr} (dlab : Bool) (hrow : opcodeRow i = none) :
    decode (encode dlab i) = .ok i := by
  cases i <;> cases hrow
  case lcrRd | lcrWr | lsrRd | lsrWr => cases dlab <;> rfl
  all_goals rfl

/-- Offsets 2, 4, 6 and 7 hold no register of the block (R62). -/
theorem decodeKey_undecodedOffset {off : BitVec 3} (dlab we : Bool) (wd : Byte)
    (h : off = 2#3 ∨ off = 4#3 ∨ off = 6#3 ∨ off = 7#3) :
    decodeKey (busKey dlab we off) wd = .error .undecodedOffset := by
  rcases h with rfl | rfl | rfl | rfl <;> cases dlab <;> cases we <;> rfl

end Sys2Proof
end

section
/-! The encoder and the two decoders agree, and the decoders follow the tables of R39 and R43. -/

namespace Sys2Proof

/-- Settles O4: a command's word is selected by its row and spells its operands, so it decodes to it; a bus operation's
key selects it. -/
theorem encodedInstrDecodesToItself : Obligations.EncodedInstrDecodesToItself := by
  intro i dlab hwf
  cases hrow : opcodeRow i with
  | some r =>
    obtain ⟨c, hc, hsel⟩ := selects_encode dlab hrow
    rw [hc]
    exact decodeCommand_eq_ok_iff.mpr ⟨r, hrow, hsel, withOperandsOf_encode hc, hwf⟩
  | none => exact decode_encode_of_opcodeRow_none dlab hrow

/-- Settles O5: a word is its row's match word and its operand fields, and a key is its three fields. -/
theorem decodedBitsAreTheEncoding : Obligations.DecodedBitsAreTheEncoding := by
  constructor
  · intro c i dlab h
    obtain ⟨hcommand, hwf⟩ := decodeCommand_ok h
    obtain ⟨r, hrow, hsel, hoperands, -⟩ := decodeCommand_eq_ok_iff.mp h
    have hword := encode_withOperandsOf dlab hrow hsel
    rw [hoperands] at hword
    exact ⟨hcommand, hwf, hword⟩
  · intro key wd i h
    have hkey := eq_busKey key
    rw [hkey] at h
    have hencode := encode_of_decodeKey_busKey_ok h
    rwa [← hkey] at hencode

/-- Settles O6: rows that select one word share its opcode, so they are one row; a selecting row's command, with the
operands the word spells, is what the word decodes to when they are legal. -/
theorem decoderFollowsOpcodeMap : Obligations.DecoderFollowsOpcodeMap := by
  refine ⟨rfl, fun c r r' hr hr' hsel hsel' => ?_, fun c i h => ?_, fun c => ⟨?_, ?_⟩⟩
  · have hop := (opcodeOf_of_selects hr hsel).symm.trans (opcodeOf_of_selects hr' hsel')
    exact eq_of_opcodeOf_pattern_eq r hr r' hr' hop
  · obtain ⟨r, hrow, hsel, -, -⟩ := decodeCommand_eq_ok_iff.mp h
    exact ⟨r, mem_opcodeRows_of_opcodeRow hrow, hrow, hsel⟩
  · rintro ⟨i, h⟩
    obtain ⟨r, hrow, hsel, hoperands, hwf⟩ := decodeCommand_eq_ok_iff.mp h
    have hr := mem_opcodeRows_of_opcodeRow hrow
    rw [← hoperands] at hwf
    exact ⟨⟨r, hr, hsel⟩, (wellFormed_withOperandsOf_iff hrow (opcodeOf_of_selects hr hsel)).mp hwf⟩
  · rintro ⟨⟨r, hr, hsel⟩, hlimits⟩
    obtain ⟨i, hrow⟩ := exists_opcodeRow_of_mem hr
    have hop := opcodeOf_of_selects hr hsel
    have hwf := (wellFormed_withOperandsOf_iff hrow hop).mpr hlimits
    exact ⟨i.withOperandsOf c, (decodeCommand_eq_checkCommand hrow hop).trans (checkCommand_of hsel hwf)⟩

/-- Settles O7: the rows of R39's table one by one, and a key is made of its fields. -/
theorem everyKeySelectsOneOperation : Obligations.EveryKeySelectsOneOperation := by
  refine ⟨fun wd => ⟨rfl, rfl, rfl, rfl, rfl, rfl, rfl, rfl, fun dlab => ?_⟩, fun key => ⟨_, _, _, eq_busKey key⟩⟩
  refine ⟨?_, ?_, ?_, ?_, fun we off hoff => decodeKey_undecodedOffset dlab we wd hoff⟩
  all_goals cases dlab <;> rfl

/-- Settles O8: nine closed words and keys, run through the decoders. -/
theorem sampleWordsDecode : Obligations.SampleWordsDecode := by
  unfold Obligations.SampleWordsDecode
  decide

end Sys2Proof
end

section
/-! The register operations (R50 to R61): what each bus operation answers, case by case, and the keys that select it. -/

namespace Sys2Proof.Machine

variable {s : State}

/-! ### What an operation does in each of its cases -/

/-- RBR_RD takes the head of a non-empty RXQ (R50). -/
theorem rbrRead_of_cons {b : Byte} {rest : List Byte} (h : s.regs.rxq = b :: rest) :
    rbrRead s = { s with rd := b, regs := { s.regs with rxq := rest } } := by
  simp only [rbrRead, h]

/-- RBR_RD of an empty RXQ is a draw (R50). -/
theorem rbrRead_of_nil (h : s.regs.rxq = []) : rbrRead s = s.readDraw := by
  simp only [rbrRead, h]

@[simp] theorem length_drawnBytes (start n : Nat) : (drawnBytes start n).length = n := by simp [drawnBytes]

/-- THR_WR appends while TXQ has room (R51). -/
theorem thrWrite_of_room (wd : Byte) (h : s.regs.txq.length < s.params.txDepth) :
    thrWrite wd s = { s with regs := { s.regs with txq := s.regs.txq ++ [wd] } } :=
  if_pos h

/-- THR_WR on a full TXQ marks the overwrite and leaves drawn bytes (R51). -/
theorem thrWrite_of_full (wd : Byte) (h : s.params.txDepth ≤ s.regs.txq.length) :
    thrWrite wd s = { s with
      regs :=
        { s.regs with
          txq := drawnBytes s.draws s.params.txDepth
          faults := { s.regs.faults with txOverwrite := true } }
      draws := s.draws + s.params.txDepth } :=
  if_neg h.not_gt

/-- THR_WR leaves a byte in TXQ, appended or drawn, when the depth is at least 1. -/
theorem thrWrite_txq_ne_nil (wd : Byte) (hdepth : 1 ≤ s.params.txDepth) : (thrWrite wd s).regs.txq ≠ [] := by
  rcases Nat.lt_or_ge s.regs.txq.length s.params.txDepth with hroom | hfull
  · rw [thrWrite_of_room wd hroom]
    exact List.concat_ne_nil wd s.regs.txq
  · rw [thrWrite_of_full wd hfull]
    exact List.ne_nil_of_length_pos (hdepth.trans_eq (length_drawnBytes _ _).symm)

/-- THRE and TEMT are 0 while TXQ holds a byte (R14). -/
theorem Regs.thre_temt_of_txq_ne_nil {r : Regs} (h : r.txq ≠ []) : r.thre = false ∧ r.temt = false := by
  simp [Regs.thre_eq_decide, Regs.temt_eq_decide, h]

/-- LSR_RD samples the flags and, under `LSR_RD_CLEARS`, clears the error flags (R60). -/
theorem lsrRead_of_clears (h : s.params.lsrRdClears = true) :
    lsrRead s = { s with rd := s.regs.lsr, regs := s.regs.clearErrors } := by
  simp only [lsrRead, h, if_true]

/-- LSR_RD only samples the flags without `LSR_RD_CLEARS` (R60). -/
theorem lsrRead_of_keeps (h : s.params.lsrRdClears = false) : lsrRead s = s.readByte s.regs.lsr := by
  simp only [lsrRead, h, Bool.false_eq_true, if_false, State.readByte]

/-! ### The operations, run -/

/-- Settles O9: `exec` answers RBR_RD's step of REGS, which is by whether RXQ has a head. -/
theorem rbrReadConsumesHead : Obligations.RbrReadConsumesHead := by
  intro s
  rw [exec_busOperation rfl]
  exact ⟨fun b rest h => congrArg _ (rbrRead_of_cons h), fun h => congrArg _ (rbrRead_of_nil h)⟩

/-- Settles O10: `exec` answers THR_WR's step of REGS, which is by whether TXQ has room, and leaves a byte in TXQ. -/
theorem thrWriteAppendsOrOverwrites : Obligations.ThrWriteAppendsOrOverwrites := by
  intro s wd
  rw [exec_busOperation rfl]
  refine ⟨fun hroom => congrArg _ (thrWrite_of_room wd hroom), fun hfull => ?_, fun hdepth t ht => ?_⟩
  · exact ⟨_, length_drawnBytes s.draws s.params.txDepth, congrArg _ (thrWrite_of_full wd hfull)⟩
  · cases ht
    exact Regs.thre_temt_of_txq_ne_nil (thrWrite_txq_ne_nil wd hdepth)

/-- Settles O11: at DLAB = 1 the keys of registers A and B select the divisor latch (R39), and each of its operations is
one assignment to RD, DLL or DLM. -/
theorem divisorLatchReadsAndWrites : Obligations.DivisorLatchReadsAndWrites := by
  intro s wd
  obtain ⟨-, -, hdllRd, hdllWr, -, -, hdlmRd, hdlmWr, -⟩ := everyKeySelectsOneOperation.1 wd
  exact ⟨hdllRd, exec_busOperation rfl s, hdllWr, exec_busOperation rfl s,
    hdlmRd, exec_busOperation rfl s, hdlmWr, exec_busOperation rfl s⟩

/-- Settles O12: at DLAB = 0 the keys of register B select IER (R39); the high nibble is the draw's. -/
theorem ierStoresByteReadsLowNibble : Obligations.IerStoresByteReadsLowNibble := by
  intro s wd
  obtain ⟨-, -, -, -, hierRd, hierWr, -⟩ := everyKeySelectsOneOperation.1 wd
  exact ⟨hierWr, hierRd, exec_busOperation rfl s, (Config.draw s.draws).extractLsb' 4 4, exec_busOperation rfl s⟩

/-- Settles O13: the keys of LCR select it at either DLAB (R39), and a write's byte is the next LCR, whose bit 7 is
DLAB. -/
theorem lcrReadsAndStoresEveryBit : Obligations.LcrReadsAndStoresEveryBit := by
  intro s wd
  obtain ⟨-, -, -, -, -, -, -, -, hkeys⟩ := everyKeySelectsOneOperation.1 wd
  have hwrite : exec (.lcrWr wd) s = .next (lcrWrite wd s) := exec_busOperation rfl s
  refine ⟨fun dlab => ?_, exec_busOperation rfl s, hwrite, fun t ht => ?_⟩
  · obtain ⟨hread, hwrite, -⟩ := hkeys dlab
    exact ⟨hread, hwrite⟩
  · cases hwrite.symm.trans ht
    rfl

/-- Settles O14: `exec` answers LSR_RD's step of REGS, which is by `LSR_RD_CLEARS`. -/
theorem lsrReadSamplesThenClears : Obligations.LsrReadSamplesThenClears := by
  intro s
  rw [exec_busOperation rfl]
  exact ⟨fun h => congrArg _ (lsrRead_of_clears h), fun h => congrArg _ (lsrRead_of_keeps h)⟩

/-- Settles O15: LSR_WR's step of REGS is `raise Fault(FLT_RO_WRITE)`, which adds that mark only. -/
theorem lsrWriteOnlyMarks : Obligations.LsrWriteOnlyMarks :=
  fun s _ => exec_busOperation rfl s

end Sys2Proof.Machine
end

section
/-! The latch window (R48, R49): the operations that touch the data path or IER have no key at DLAB = 1, and every other
access leaves both alone. -/

namespace Sys2Proof

/-- The operations R39 selects at DLAB = 0 only: those of RBR, THR and IER. -/
def Instr.outsideWindow : Instr → Bool
  | .rbrRd | .thrWr _ | .ierRd | .ierWr _ => true
  | _ => false

/-- No key with DLAB = 1 selects an operation of RBR, THR or IER (R39, R49): their keys have DLAB = 0. -/
theorem outsideWindow_of_decodeKey_latched {we : Bool} {off : BitVec 3} {wd : Byte} {i : Instr}
    (h : decodeKey (busKey true we off) wd = .ok i) : i.outsideWindow = false := by
  obtain ⟨-, hkey⟩ := encode_of_decodeKey_busKey_ok h
  obtain ⟨-, -, hlatched⟩ := busKey_fields true we off
  cases i
  case rbrRd | thrWr | ierRd | ierWr =>
    injection hkey with hkey
    rw [← hkey, (busKey_fields _ _ _).2.2] at hlatched
    cases hlatched
  all_goals rfl

end Sys2Proof

namespace Sys2Proof.Machine

/-- What an access inside the latch window cannot touch. -/
structure SameDataPath (r r' : Regs) : Prop where
  rxq : r'.rxq = r.rxq
  txq : r'.txq = r.txq
  ier : r'.ier = r.ier
  tsr : r'.tsr = r.tsr

/-- Of the operations, only those of RBR, THR and IER change RXQ, TXQ or IER; none changes TSR. -/
theorem regsApply_sameDataPath {i : Instr} (h : i.outsideWindow = false) (s : State) :
    SameDataPath s.regs (regsApply i s).regs := by
  cases i
  case rbrRd | thrWr | ierRd | ierWr => cases h
  case lsrRd =>
    simp only [regsApply, lsrRead]
    split <;> exact ⟨rfl, rfl, rfl, rfl⟩
  all_goals exact ⟨rfl, rfl, rfl, rfl⟩

/-- An undecoded access changes, of REGS, the fault marks only. -/
theorem undecodedAccess_sameDataPath (we : Bool) (s : State) : SameDataPath s.regs (undecodedAccess we s).regs := by
  cases we <;> exact ⟨rfl, rfl, rfl, rfl⟩

/-- No access inside the latch window changes RXQ, TXQ, IER or TSR. -/
theorem busAccess_sameDataPath {s : State} (hdlab : s.dlab = true) (we : Bool) (off : BitVec 3) (wd : Byte) :
    SameDataPath s.regs (busAccess we off wd s).regs := by
  cases hkey : decodeKey (busKey s.dlab we off) wd with
  | ok i =>
    rw [busAccess_of_decodeKey_ok hkey]
    rw [hdlab] at hkey
    exact regsApply_sameDataPath (outsideWindow_of_decodeKey_latched hkey) s
  | error e =>
    rw [busAccess_of_decodeKey_error hkey]
    exact undecodedAccess_sameDataPath we s

/-- Settles O16: the data path and IER have no key in the latch window, and the keys of A and B are those of DLL and
DLM. -/
theorem latchWindowHidesDataPath : Obligations.LatchWindowHidesDataPath := by
  intro s hdlab
  refine ⟨fun we off wd => ?_, ?_, ?_, fun v => ⟨?_, ?_⟩⟩
  · obtain ⟨hrxq, htxq, hier, htsr⟩ := busAccess_sameDataPath hdlab we off wd
    exact ⟨hrxq, htxq, hier, htsr⟩
  · rw [busRead_offA, if_pos hdlab]
    rfl
  · rw [busRead_offB, if_pos hdlab]
    rfl
  · rw [busWrite_offA, if_pos hdlab]
    rfl
  · rw [busWrite_offB, if_pos hdlab]
    rfl

end Sys2Proof.Machine
end

section
/-! The line-control codec and the divisor (R63 to R68): each field writer, bit by bit, and the field readers as tests
on the bits they read. -/

namespace Sys2Proof.Machine

/-! ### Bits and fields of a byte -/

/-- Two bytes with the same bits in a field have the same field. -/
theorem extractLsb'_congr {v w : Byte} {k n : Nat} (h : ∀ j, k ≤ j → j < k + n → w.getLsbD j = v.getLsbD j) :
    w.extractLsb' k n = v.extractLsb' k n := by
  apply BitVec.eq_of_getLsbD_eq
  intro j hj
  simp only [BitVec.getLsbD_extractLsb', hj, h (k + j) (by omega) (by omega)]

/-- `par_dec` reads bits 3, 4 and 5 only (R66). -/
theorem parDec_congr {v w : Byte} (h : ∀ j, 3 ≤ j → j < 6 → w.getLsbD j = v.getLsbD j) : parDec w = parDec v := by
  unfold parDec
  rw [h 3 (by decide) (by decide), h 4 (by decide) (by decide), h 5 (by decide) (by decide)]

/-- `set_wls` writes bits 1:0 only (R63). -/
theorem setWls_getLsbD (v : Byte) (n : BitVec 2) {j : Nat} (h : 2 ≤ j) : (setWls v n).getLsbD j = v.getLsbD j := by
  by_cases hj : j < 8
  · interval_cases j <;> simp [setWls]
  · rw [BitVec.getLsbD_of_ge _ _ (by omega), BitVec.getLsbD_of_ge _ _ (by omega)]

/-- `set_stb` writes bit 2 only (R64). -/
theorem setStb_getLsbD (v : Byte) (k : BitVec 1) {j : Nat} (h : j ≠ 2) : (setStb v k).getLsbD j = v.getLsbD j := by
  by_cases hj : j < 8
  · interval_cases j <;> simp_all [setStb]
  · rw [BitVec.getLsbD_of_ge _ _ (by omega), BitVec.getLsbD_of_ge _ _ (by omega)]

/-- The word-length field reads back what was written. -/
@[simp] theorem wls_setWls (v : Byte) (n : BitVec 2) : wls (setWls v n) = n := by
  apply BitVec.eq_of_getLsbD_eq
  intro j hj
  interval_cases j <;> simp [wls, setWls]

/-- The stop-bit field reads back what was written. -/
@[simp] theorem stb_setStb (v : Byte) (k : BitVec 1) : stb (setStb v k) = k := by
  apply BitVec.eq_of_getLsbD_eq
  intro j hj
  interval_cases j
  simp [stb, setStb]

/-! ### Each field writer leaves the other fields -/

@[simp] theorem stb_setWls (v : Byte) (n : BitVec 2) : stb (setWls v n) = stb v :=
  extractLsb'_congr fun _ hk _ => setWls_getLsbD v n hk

@[simp] theorem parDec_setWls (v : Byte) (n : BitVec 2) : parDec (setWls v n) = parDec v :=
  parDec_congr fun _ hk _ => setWls_getLsbD v n (by omega)

@[simp] theorem parDec_setStb (v : Byte) (k : BitVec 1) : parDec (setStb v k) = parDec v :=
  parDec_congr fun _ hk _ => setStb_getLsbD v k (by omega)

/-! ### Parity -/

/-- The bits that `v & 0xC7` keeps: all but PEN, EPS and SP (R65). -/
theorem and_0xC7_getLsbD (v : Byte) (j : Nat) :
    (v &&& 0xC7#8).getLsbD j = (v.getLsbD j && !(decide (3 ≤ j) && decide (j < 6))) := by
  by_cases hj : j < 8
  · interval_cases j <;> simp
  · simp [BitVec.getLsbD_of_ge v j (by omega)]

/-- The codes that have an encoding (R65). -/
theorem exists_parEnc {p : BitVec 3} (h : p.toNat ≤ 4) : ∃ e, parEnc p = some e := by
  revert p
  decide

/-- An encoding decodes to its code, sets no bit but PEN, EPS and SP, and SP only with PEN (R65, R66). -/
theorem parEnc_some {p : BitVec 3} {e : Byte} (h : parEnc p = some e) :
    parDec e = p ∧ e &&& 0xC7#8 = 0#8 ∧ (e.getLsbD 5 = true → e.getLsbD 3 = true) := by
  unfold parEnc at h
  split at h <;> cases h <;> decide

/-- What `set_par` writes (R65). -/
theorem setPar_of_parEnc {p : BitVec 3} {e : Byte} (v : Byte) (h : parEnc p = some e) :
    setPar v p = some ((v &&& 0xC7#8) ||| e) := by
  simp only [setPar, h]

/-- A byte that `set_par` writes has an encoding in bits 5:3, and the old byte in the others. -/
theorem setPar_some {p : BitVec 3} {v w : Byte} (h : setPar v p = some w) :
    ∃ e, parEnc p = some e ∧ (∀ j, 3 ≤ j → j < 6 → w.getLsbD j = e.getLsbD j) ∧
      ∀ j, j < 3 ∨ 6 ≤ j → w.getLsbD j = v.getLsbD j := by
  cases he : parEnc p with
  | none => simp [setPar, he] at h
  | some e =>
    rw [setPar_of_parEnc v he] at h
    cases h
    obtain ⟨-, hmask, -⟩ := parEnc_some he
    refine ⟨e, rfl, fun j hlow hhigh => ?_, fun j hj => ?_⟩
    · simp [and_0xC7_getLsbD, -BitVec.getLsbD_and, BitVec.getLsbD_or, hlow, hhigh]
    · have hclear : e.getLsbD j = false := by
        have hbit := and_0xC7_getLsbD e j
        rw [hmask] at hbit
        rcases hj with hj | hj <;> simpa [Nat.not_le.mpr, Nat.not_lt.mpr, hj] using hbit.symm
      rcases hj with hj | hj <;>
        simp [and_0xC7_getLsbD, -BitVec.getLsbD_and, BitVec.getLsbD_or, hclear, Nat.not_le.mpr, Nat.not_lt.mpr, hj]

/-! ### The divisor -/

/-- Splitting, then combining (R68). -/
@[simp] theorem divOf_divHi_divLo (d : Half) : divOf (divHi d) (divLo d) = d :=
  BitVec.extractLsb'_append_extractLsb'_eq_extractLsb' (by decide) |>.trans BitVec.extractLsb'_eq_self

@[simp] theorem divLo_divOf (hi lo : Byte) : divLo (divOf hi lo) = lo := BitVec.extractLsb'_append_eq_right

@[simp] theorem divHi_divOf (hi lo : Byte) : divHi (divOf hi lo) = hi := BitVec.extractLsb'_append_eq_left

/-- DLM is the high byte of the divisor (R17). -/
theorem toNat_divOf (hi lo : Byte) : (divOf hi lo).toNat = 256 * hi.toNat + lo.toNat := by
  have hlo := lo.isLt
  rw [divOf, BitVec.toNat_append, ← Nat.shiftLeft_add_eq_or_of_lt hlo, Nat.shiftLeft_eq]
  omega

/-! ### The obligations -/

/-- Settles O19: a written byte has the code's encoding in the bits that `par_dec` reads, and the old byte elsewhere. -/
theorem parityCodecRoundTrip : Obligations.ParityCodecRoundTrip := by
  intro p v hp
  obtain ⟨e, he⟩ := exists_parEnc hp
  have hw := setPar_of_parEnc v he
  obtain ⟨e', he', hflags, hkept⟩ := setPar_some hw
  refine ⟨_, hw, ?_, ?_, ?_⟩
  · exact (parDec_congr hflags).trans (parEnc_some he').1
  · exact extractLsb'_congr fun j hj _ => hkept j (.inr hj)
  · exact extractLsb'_congr fun j _ hj => hkept j (.inl (by omega))

/-- Settles O20: each field reads back what was written, and the writer changes no bit outside it. -/
theorem wordLengthAndStopFields : Obligations.WordLengthAndStopFields := by
  refine ⟨fun v n => ⟨rfl, rfl, wls_setWls v n, ?_, rfl, rfl⟩, fun v k => ⟨rfl, rfl, stb_setStb v k, ?_, ?_⟩, ?_⟩
  · exact extractLsb'_congr fun _ hj _ => setWls_getLsbD v n hj
  · exact extractLsb'_congr fun _ hj _ => setStb_getLsbD v k (by omega)
  · exact extractLsb'_congr fun _ _ hj => setStb_getLsbD v k (by omega)
  · exact fun n => ⟨rfl, fun hn => by simp [stopHalfBits, hn], fun hn => by simp [stopHalfBits, hn]⟩

/-- Settles O21: the encodings by their table, no byte written with SP alone because no encoding has it, and `par_dec`
by the flags it reads. -/
theorem parityTables : Obligations.ParityTables := by
  refine ⟨⟨rfl, rfl, rfl, rfl, rfl, by decide⟩, fun v p e => setPar_of_parEnc v, fun v w p hw hsp => ?_, fun v => ?_⟩
  · obtain ⟨e, he, hflags, -⟩ := setPar_some hw
    rw [hflags 5 (by decide) (by decide)] at hsp
    rw [hflags 3 (by decide) (by decide)]
    exact (parEnc_some he).2.2 hsp
  · unfold parDec
    cases v.getLsbD 3 <;> cases v.getLsbD 5 <;> cases v.getLsbD 4 <;> simp

/-- Settles O22: the two bytes of a divisor are its halves. -/
theorem divisorSplitAndCombineInverse : Obligations.DivisorSplitAndCombineInverse :=
  ⟨fun d => ⟨rfl, rfl, divOf_divHi_divLo d⟩,
    fun hi lo => ⟨toNat_divOf hi lo, divLo_divOf hi lo, divHi_divOf hi lo⟩⟩

end Sys2Proof.Machine
end

section
/-! The configuration micro-programs, label by label (R69 to R81): the next state of each shared step, written out, and
the commands that use it. -/

namespace Sys2Proof.Machine

/-! ### The accesses -/

/-- While BUSY a command is at a step of its micro-program (R22). -/
theorem exec_of_microSteps {i : Instr} {l : Label} {s t : State} (hi : i.isCommand = true)
    (hbusy : s.seq.phase = .busy) (hpc : s.seq.pc = some l) (hstep : microSteps i l s = some t) :
    exec i s = .next t :=
  (exec_command hi s).trans (micro_busy hbusy hpc hstep)

/-- The read of LCR into `s` (R58, R69). -/
theorem readIntoS_eq (l : Label) (s : State) :
    readIntoS l s = { s with rd := s.regs.lcr, seq := { s.seq with s := s.regs.lcr, pc := some l } } := by
  rw [readIntoS, busRead_lcr]
  rfl

/-- The read of LCR into `t` (R58, R72). -/
theorem readIntoT_lcr_eq (s : State) :
    readIntoT offLcr s = { s with rd := s.regs.lcr, seq := { s.seq with t := s.regs.lcr } } := by
  rw [readIntoT, busRead_lcr]
  rfl

/-- The write of LCR (R59). -/
theorem busWrite_lcr_eq (v : Byte) (s : State) :
    busWrite offLcr v s = { s with regs := { s.regs with lcr := v } } :=
  busWrite_lcr v s

section Window

variable {s : State} (hdlab : s.dlab = true)
include hdlab

/-- Inside the latch window register A is DLL and register B is DLM (R52, R53, R56, R57). -/
theorem busRead_offA_latched : busRead offA s = { s with rd := s.regs.dll } :=
  (busRead_offA s).trans (if_pos hdlab)
theorem busRead_offB_latched : busRead offB s = { s with rd := s.regs.dlm } :=
  (busRead_offB s).trans (if_pos hdlab)
theorem busWrite_offA_latched (v : Byte) : busWrite offA v s = { s with regs := { s.regs with dll := v } } :=
  (busWrite_offA v s).trans (if_pos hdlab)
theorem busWrite_offB_latched (v : Byte) : busWrite offB v s = { s with regs := { s.regs with dlm := v } } :=
  (busWrite_offB v s).trans (if_pos hdlab)

end Window

/-! ### The steps that several micro-programs share -/

section Shared

variable (after : State → State) {s : State}

/-- SETDIV's steps (R70). -/
theorem setdivSteps_lcrSave (d : Half) : setdivSteps d after .lcrSave s = some
    { s with rd := s.regs.lcr, seq := { s.seq with s := s.regs.lcr, pc := some .latchOpen } } :=
  congrArg some (readIntoS_eq _ s)

theorem setdivSteps_latchOpen (d : Half) : setdivSteps d after .latchOpen s = some
    { s with regs := { s.regs with lcr := withLatch s.seq.s }, seq := { s.seq with pc := some .divLow } } := by
  rw [setdivSteps, busWrite_lcr_eq]
  rfl

theorem setdivSteps_divLow (d : Half) (hdlab : s.dlab = true) : setdivSteps d after .divLow s = some
    { s with regs := { s.regs with dll := divLo d }, seq := { s.seq with pc := some .divHigh } } := by
  rw [setdivSteps, busWrite_offA_latched hdlab]
  rfl

theorem setdivSteps_divHigh (d : Half) (hdlab : s.dlab = true) : setdivSteps d after .divHigh s = some
    { s with regs := { s.regs with dlm := divHi d }, seq := { s.seq with pc := some .lcrRestore } } := by
  rw [setdivSteps, busWrite_offB_latched hdlab]
  rfl

theorem setdivSteps_lcrRestore (d : Half) : setdivSteps d after .lcrRestore s = some
    (after { s with regs := { s.regs with lcr := s.seq.s } }) := by
  rw [setdivSteps, busWrite_lcr_eq]

/-- GETDIV's steps (R69). -/
theorem getdivSteps_lcrSave : getdivSteps after .lcrSave s = some
    { s with rd := s.regs.lcr, seq := { s.seq with s := s.regs.lcr, pc := some .latchOpen } } :=
  congrArg some (readIntoS_eq _ s)

theorem getdivSteps_latchOpen : getdivSteps after .latchOpen s = some
    { s with regs := { s.regs with lcr := withLatch s.seq.s }, seq := { s.seq with pc := some .divLow } } := by
  rw [getdivSteps, busWrite_lcr_eq]
  rfl

theorem getdivSteps_divLow (hdlab : s.dlab = true) : getdivSteps after .divLow s = some
    { s with rd := s.regs.dll, seq := { s.seq with lo := s.regs.dll, pc := some .divHigh } } := by
  rw [getdivSteps, busRead_offA_latched hdlab]

theorem getdivSteps_divHigh_restore (hdlab : s.dlab = true) (hrestore : s.params.getdivRestore = true) :
    getdivSteps after .divHigh s = some
      { s with rd := s.regs.dlm, seq := { s.seq with hi := s.regs.dlm, pc := some .lcrRestore } } := by
  rw [getdivSteps, busRead_offB_latched hdlab, if_pos hrestore]
  rfl

theorem getdivSteps_divHigh_last (hdlab : s.dlab = true) (hrestore : s.params.getdivRestore = false) :
    getdivSteps after .divHigh s = some
      (after { s with rd := s.regs.dlm, seq := { s.seq with hi := s.regs.dlm } }) := by
  rw [getdivSteps, busRead_offB_latched hdlab, if_neg (ne_true_of_eq_false hrestore)]

theorem getdivSteps_lcrRestore (hrestore : s.params.getdivRestore = true) :
    getdivSteps after .lcrRestore s = some (after { s with regs := { s.regs with lcr := s.seq.s } }) := by
  rw [getdivSteps, busWrite_lcr_eq, if_pos hrestore]

/-- The steps of the three field setters (R73, R75, R77). -/
theorem setparSteps_parRead (p : BitVec 3) : setparSteps p after .parRead s = some
    { s with rd := s.regs.lcr, seq := { s.seq with s := s.regs.lcr, pc := some .parWrite } } :=
  congrArg some (readIntoS_eq _ s)

theorem setparSteps_parWrite {p : BitVec 3} {v : Byte} (hv : setPar s.seq.s p = some v) :
    setparSteps p after .parWrite s = some (after { s with regs := { s.regs with lcr := v } }) := by
  simp only [setparSteps, hv, busWrite_lcr_eq]

theorem setstopSteps_stopRead (k : BitVec 1) : setstopSteps k after .stopRead s = some
    { s with rd := s.regs.lcr, seq := { s.seq with s := s.regs.lcr, pc := some .stopWrite } } :=
  congrArg some (readIntoS_eq _ s)

theorem setstopSteps_stopWrite (k : BitVec 1) : setstopSteps k after .stopWrite s = some
    (after { s with regs := { s.regs with lcr := setStb s.seq.s k } }) := by
  rw [setstopSteps, busWrite_lcr_eq]

theorem setwlenSteps_wlenRead (n : BitVec 2) : setwlenSteps n after .wlenRead s = some
    { s with rd := s.regs.lcr, seq := { s.seq with s := s.regs.lcr, pc := some .wlenWrite } } :=
  congrArg some (readIntoS_eq _ s)

theorem setwlenSteps_wlenWrite (n : BitVec 2) : setwlenSteps n after .wlenWrite s = some
    (after { s with regs := { s.regs with lcr := setWls s.seq.s n } }) := by
  rw [setwlenSteps, busWrite_lcr_eq]

end Shared

/-! ### The steps of one command -/

/-- What GETDIV does after its last access: it returns the divisor it read (R69). -/
def getdivReturn (s : State) : State := s.ret .ok ((divOf s.seq.hi s.seq.lo).setWidth 32) []

theorem microSteps_getdiv : microSteps .getdiv = getdivSteps getdivReturn := rfl

section Single

variable (s : State)

/-- The field getters' one step (R72, R74, R76). -/
theorem getparStep_parRead : getparStep .parRead s = some
    (State.ret .ok ((parDec s.regs.lcr).setWidth 32) []
      { s with rd := s.regs.lcr, seq := { s.seq with t := s.regs.lcr } }) := by
  rw [getparStep, readIntoT_lcr_eq]

theorem getstopStep_stopRead : getstopStep .stopRead s = some
    (State.ret .ok ((stb s.regs.lcr).setWidth 32) []
      { s with rd := s.regs.lcr, seq := { s.seq with t := s.regs.lcr } }) := by
  rw [getstopStep, readIntoT_lcr_eq]

theorem getwlenStep_wlenRead : getwlenStep .wlenRead s = some
    (State.ret .ok ((wls s.regs.lcr).setWidth 32) []
      { s with rd := s.regs.lcr, seq := { s.seq with t := s.regs.lcr } }) := by
  rw [getwlenStep, readIntoT_lcr_eq]

/-- GETCFG's three LCR reads (R79). -/
theorem getcfgSteps_parRead : getcfgSteps .parRead s = some
    { s with
      rd := s.regs.lcr
      seq := { s.seq with t := s.regs.lcr, p := parDec s.regs.lcr, pc := some .stopRead } } := by
  rw [getcfgSteps, readIntoT_lcr_eq]

theorem getcfgSteps_stopRead : getcfgSteps .stopRead s = some
    { s with
      rd := s.regs.lcr
      seq := { s.seq with t := s.regs.lcr, k := stb s.regs.lcr, pc := some .wlenRead } } := by
  rw [getcfgSteps, readIntoT_lcr_eq]

theorem getcfgSteps_wlenRead : getcfgSteps .wlenRead s = some
    (State.ret .ok (packConfig (divOf s.seq.hi s.seq.lo) s.seq.p s.seq.k (wls s.regs.lcr)) []
      { s with rd := s.regs.lcr, seq := { s.seq with t := s.regs.lcr } }) := by
  rw [getcfgSteps, readIntoT_lcr_eq]

/-- The one access of REGRD (R80). -/
theorem regrdStep_rawAccess (off : BitVec 3) : regrdStep off .rawAccess s = some
    (State.ret .ok ((busRead off s).rd.setWidth 32) []
      { busRead off s with seq := { s.seq with t := (busRead off s).rd } }) := by
  rw [regrdStep, readIntoT, busRead_seq]

/-- The one access of REGWR (R81). -/
theorem regwrStep_rawAccess (off : BitVec 3) (v : Byte) : regwrStep off v .rawAccess s = some
    { busWrite off v s with
      seq := { s.seq with phase := .idle, pc := none }
      result := some { status := Status.ok.code, value := 0#32, data := [] } } := by
  rw [← busWrite_seq off v s]
  rfl

/-- What a read reaches at each offset that REGRD accepts (R39). -/
theorem busRead_selects {off : BitVec 3} (h : regrdOffsetLegal off = true) :
    busRead off s = if off = 3#3 then lcrRead s else if off = 5#3 then lsrRead s
      else if off = 0#3 then (if s.dlab then dllRead s else rbrRead s)
      else (if s.dlab then dlmRead s else ierRead s) := by
  have offsets : off = offA ∨ off = offB ∨ off = offLcr ∨ off = offLsr := by revert h; revert off; decide
  rcases offsets with rfl | rfl | rfl | rfl
  · exact busRead_offA s
  · exact busRead_offB s
  · exact busRead_lcr s
  · exact busRead_lsr s

/-- What a write reaches at each offset that REGWR accepts (R39). -/
theorem busWrite_selects {off : BitVec 3} (v : Byte) (h : regwrOffsetLegal off = true) :
    busWrite off v s = if off = 3#3 then lcrWrite v s
      else if off = 0#3 then (if s.dlab then dllWrite v s else thrWrite v s)
      else (if s.dlab then dlmWrite v s else ierWrite v s) := by
  have offsets : off = offA ∨ off = offB ∨ off = offLcr := by revert h; revert off; decide
  rcases offsets with rfl | rfl | rfl
  · exact busWrite_offA v s
  · exact busWrite_offB v s
  · exact busWrite_lcr v s

end Single

/-- Inside INIT's divisor part the steps are SETDIV's, going on to SETPAR's (R78, C7). -/
theorem initSteps_setdiv {h : BitVec 1} {p : BitVec 3} {k : BitVec 1} {n : BitVec 2} {d : Half} (hdiv : h = 1#1) :
    ∀ l ∈ [Label.lcrSave, .latchOpen, .divLow, .divHigh, .lcrRestore], ∀ s,
      microSteps (.init h p k n d) l s = setdivSteps d (State.goto .parRead) l s := by
  simp [microSteps, initSteps, hdiv]

/-! ### The obligations -/

/-- Settles O25: GETDIV's steps, and what it returns after the last of them. -/
theorem getdivMicroProgram : Obligations.GetdivMicroProgram := by
  intro s hbusy
  refine ⟨fun hpc => ?_, fun hpc => ?_, fun hpc hdlab => ?_, fun hpc hdlab hrestore => ?_,
    fun hpc hdlab hrestore => ?_, fun hpc hrestore => ?_⟩
  · exact exec_of_microSteps rfl hbusy hpc (getdivSteps_lcrSave getdivReturn)
  · exact exec_of_microSteps rfl hbusy hpc (getdivSteps_latchOpen getdivReturn)
  · exact exec_of_microSteps rfl hbusy hpc (getdivSteps_divLow getdivReturn hdlab)
  · exact exec_of_microSteps rfl hbusy hpc (getdivSteps_divHigh_restore getdivReturn hdlab hrestore)
  · exact exec_of_microSteps rfl hbusy hpc (getdivSteps_divHigh_last getdivReturn hdlab hrestore)
  · exact exec_of_microSteps rfl hbusy hpc (getdivSteps_lcrRestore getdivReturn hrestore)

/-- Settles O26: SETDIV's steps, the last of which returns. -/
theorem setdivMicroProgram : Obligations.SetdivMicroProgram := by
  intro s d hbusy
  refine ⟨fun hpc => ?_, fun hpc => ?_, fun hpc hdlab => ?_, fun hpc hdlab => ?_, fun hpc => ?_⟩
  · exact exec_of_microSteps rfl hbusy hpc (setdivSteps_lcrSave State.retOk d)
  · exact exec_of_microSteps rfl hbusy hpc (setdivSteps_latchOpen State.retOk d)
  · exact exec_of_microSteps rfl hbusy hpc (setdivSteps_divLow State.retOk d hdlab)
  · exact exec_of_microSteps rfl hbusy hpc (setdivSteps_divHigh State.retOk d hdlab)
  · exact exec_of_microSteps rfl hbusy hpc (setdivSteps_lcrRestore State.retOk d)

/-- Settles O27: each getter is one read of LCR and the return of its field. -/
theorem fieldGettersReturnField : Obligations.FieldGettersReturnField := by
  intro s hbusy
  refine ⟨fun hpc => ?_, fun hpc => ?_, fun hpc => ?_⟩
  · exact exec_of_microSteps rfl hbusy hpc (getparStep_parRead s)
  · exact exec_of_microSteps rfl hbusy hpc (getstopStep_stopRead s)
  · exact exec_of_microSteps rfl hbusy hpc (getwlenStep_wlenRead s)

/-- Settles O28: each setter is a read of LCR into `s` and a write of `s` with its field replaced. -/
theorem fieldSettersOverwriteField : Obligations.FieldSettersOverwriteField := by
  intro s hbusy
  refine ⟨fun p => ⟨fun hpc => ?_, fun v hpc hv => ?_⟩, fun k => ⟨fun hpc => ?_, fun hpc => ?_⟩,
    fun n => ⟨fun hpc => ?_, fun hpc => ?_⟩⟩
  · exact exec_of_microSteps rfl hbusy hpc (setparSteps_parRead State.retOk p)
  · exact exec_of_microSteps rfl hbusy hpc (setparSteps_parWrite State.retOk hv)
  · exact exec_of_microSteps rfl hbusy hpc (setstopSteps_stopRead State.retOk k)
  · exact exec_of_microSteps rfl hbusy hpc (setstopSteps_stopWrite State.retOk k)
  · exact exec_of_microSteps rfl hbusy hpc (setwlenSteps_wlenRead State.retOk n)
  · exact exec_of_microSteps rfl hbusy hpc (setwlenSteps_wlenWrite State.retOk n)

/-- Settles O29: INIT's steps are those of the four setters, each part going on to the next. -/
theorem initMicroProgram : Obligations.InitMicroProgram := by
  intro s h p k n d hbusy
  refine ⟨fun hdiv => ?_, fun hpc => ?_, fun v hpc hv => ?_, fun hpc => ?_, fun hpc => ?_, fun hpc => ?_,
    fun hpc => ?_⟩
  · have hsteps := initSteps_setdiv (p := p) (k := k) (n := n) (d := d) hdiv
    refine ⟨fun hpc => ?_, fun hpc => ?_, fun hpc hdlab => ?_, fun hpc hdlab => ?_, fun hpc => ?_⟩ <;>
      refine exec_of_microSteps rfl hbusy hpc ((hsteps _ (by simp) s).trans ?_)
    · exact setdivSteps_lcrSave _ d
    · exact setdivSteps_latchOpen _ d
    · exact setdivSteps_divLow _ d hdlab
    · exact setdivSteps_divHigh _ d hdlab
    · exact setdivSteps_lcrRestore _ d
  · exact exec_of_microSteps rfl hbusy hpc (setparSteps_parRead (State.goto .stopRead) p)
  · exact exec_of_microSteps rfl hbusy hpc (setparSteps_parWrite (State.goto .stopRead) hv)
  · exact exec_of_microSteps rfl hbusy hpc (setstopSteps_stopRead (State.goto .wlenRead) k)
  · exact exec_of_microSteps rfl hbusy hpc (setstopSteps_stopWrite (State.goto .wlenRead) k)
  · exact exec_of_microSteps rfl hbusy hpc (setwlenSteps_wlenRead State.retOk n)
  · exact exec_of_microSteps rfl hbusy hpc (setwlenSteps_wlenWrite State.retOk n)

/-- Settles O30: GETCFG's steps are GETDIV's, going on to its three LCR reads. -/
theorem getcfgMicroProgram : Obligations.GetcfgMicroProgram := by
  intro s hbusy
  refine ⟨fun hpc => ?_, fun hpc => ?_, fun hpc hdlab => ?_, fun hpc hdlab => ?_, fun hpc hrestore => ?_,
    fun hpc => ?_, fun hpc => ?_, fun hpc => ?_⟩
  · exact exec_of_microSteps rfl hbusy hpc (getdivSteps_lcrSave (State.goto .parRead))
  · exact exec_of_microSteps rfl hbusy hpc (getdivSteps_latchOpen (State.goto .parRead))
  · exact exec_of_microSteps rfl hbusy hpc (getdivSteps_divLow (State.goto .parRead) hdlab)
  · cases hrestore : s.params.getdivRestore
    · exact exec_of_microSteps rfl hbusy hpc (getdivSteps_divHigh_last (State.goto .parRead) hdlab hrestore)
    · exact exec_of_microSteps rfl hbusy hpc (getdivSteps_divHigh_restore (State.goto .parRead) hdlab hrestore)
  · exact exec_of_microSteps rfl hbusy hpc (getdivSteps_lcrRestore (State.goto .parRead) hrestore)
  · exact exec_of_microSteps rfl hbusy hpc (getcfgSteps_parRead s)
  · exact exec_of_microSteps rfl hbusy hpc (getcfgSteps_stopRead s)
  · exact exec_of_microSteps rfl hbusy hpc (getcfgSteps_wlenRead s)

/-- Settles O31: the one step of each is an access at its offset, and the multiplexer selects the register. -/
theorem rawAccessReachesSelectedRegister : Obligations.RawAccessReachesSelectedRegister := by
  intro s hbusy hpc
  refine ⟨fun off u hoff hu => ?_, fun off v u hoff hu => ?_⟩
  · obtain rfl : busRead off s = u := (busRead_selects s hoff).trans hu.symm
    exact exec_of_microSteps rfl hbusy hpc (regrdStep_rawAccess s off)
  · obtain rfl : busWrite off v s = u := (busWrite_selects s v hoff).trans hu.symm
    exact exec_of_microSteps rfl hbusy hpc (regwrStep_rawAccess s off v)

end Sys2Proof.Machine
end

section
/-! Runs with LINE stepping between SEQ's moves (R9, R92): LINE changes nothing that a step on the configuration
registers sees, so such a run is a chain of SEQ's steps on what LINE leaves alone. -/

namespace Sys2Proof.Machine

variable {s t u v w : State} {i : Instr} {l : Label} {m n : Nat} {ms : List Move}

/-! ### What LINE leaves alone -/

/-- The state without what LINE and the schedule change: no received byte, no error flag, all counters at 0, and the
bytes of the transmit path, which LINE only moves along, all on the wire. -/
def State.lineBlind (s : State) : State :=
  { s with
    regs :=
      { s.regs with
        rxq := [], txq := [], tsr := none, wire := s.regs.sent
        oe := false, pe := false, fe := false, bi := false, b7 := false }
    agenda := []
    ticks := 0
    draws := 0 }

theorem lineBlind_sent (s : State) : s.lineBlind.regs.sent = s.regs.sent := by
  simp [State.lineBlind, Regs.sent]

/-- No step of LINE shows (R92). -/
theorem lineStep_lineBlind (l : LineStep) (s : State) : (lineStep l s).lineBlind = s.lineBlind := by
  cases l with
  | rxDeliver b =>
    show (rxDeliver b s).lineBlind = s.lineBlind
    rcases rxDeliver_cases b s with ⟨-, he⟩ | ⟨-, q, -, he⟩ <;> rw [he] <;> rfl
  | txLoad =>
    show (txLoad s).lineBlind = s.lineBlind
    rcases txLoad_cases s with ⟨b, rest, hq, ht, he⟩ | ⟨-, he⟩
    · simp [he, State.lineBlind, Regs.sent, hq, ht]
    · rw [he]
  | txDone =>
    show (txDone s).lineBlind = s.lineBlind
    rcases txDone_cases s with ⟨b, ht, he⟩ | ⟨-, he⟩
    · simp [he, State.lineBlind, Regs.sent, ht]
    · rw [he]
  | lineError => rfl

/-! ### Chains of SEQ's steps -/

/-- Whatever LINE has done to a state that looks like `v`, SEQ's step leads to one that looks like `w`. -/
def SeqLeads (v w : State) : Prop := ∀ s, s.lineBlind = v → ∃ t, seqStep s = .next t ∧ t.lineBlind = w

/-- `n` steps of SEQ lead from `v` to `w`, whatever LINE does in between. -/
inductive SeqRuns : Nat → State → State → Prop where
  | done (v : State) : SeqRuns 0 v v
  | step {n : Nat} {u v w : State} (hstep : SeqLeads u v) (hruns : SeqRuns n v w) : SeqRuns (n + 1) u w

theorem SeqRuns.trans (h : SeqRuns m u v) (h' : SeqRuns n v w) : SeqRuns (m + n) u w := by
  induction h with
  | done =>
    rw [Nat.zero_add]
    exact h'
  | step hstep _ ih =>
    rw [Nat.succ_add]
    exact .step hstep (ih h')

/-- A move that answers a next state is followed by the rest of the schedule. -/
theorem runMoves_cons {mv : Move} (hext : s.ext = none)
    (h : takeMove mv { s with ticks := s.ticks + 1 } = .next t) : runMoves (mv :: ms) s = runMoves ms t := by
  simp only [runMoves, step_schedule mv s hext, h]

theorem runMoves_append {ms' : List Move} (h : runMoves ms s = some t) :
    runMoves (ms ++ ms') s = runMoves ms' t := by
  induction ms generalizing s with
  | nil =>
    cases h
    rfl
  | cons mv ms ih =>
    simp only [List.cons_append, runMoves] at h ⊢
    split at h
    · exact ih h
    · cases h
    · cases h

/-- Any schedule with as many moves of SEQ as the chain has steps, and LINE's moves anywhere, takes the chain. -/
theorem SeqRuns.exists_runMoves (h : SeqRuns n v w) (hfacts : OwnFacts s) (hs : s.lineBlind = v)
    (hms : seqAndLine ms = true) (hcount : ms.count .seq = n) : ∃ t, runMoves ms s = some t ∧ t.lineBlind = w := by
  induction ms generalizing n v s with
  | nil =>
    obtain rfl : 0 = n := hcount
    cases h
    exact ⟨s, rfl, hs⟩
  | cons mv ms ih =>
    simp only [seqAndLine, List.all_cons, Bool.and_eq_true] at hms
    obtain ⟨hmv, hms⟩ := hms
    have hcounted : OwnFacts { s with ticks := s.ticks + 1 } := hfacts.of_seq_eq rfl rfl rfl id id
    cases mv with
    | seq =>
      rw [List.count_cons_self] at hcount
      subst hcount
      obtain - | ⟨hstep, hruns⟩ := h
      obtain ⟨t, ht, htw⟩ := hstep { s with ticks := s.ticks + 1 } hs
      rw [runMoves_cons (mv := .seq) hfacts.ext ht]
      exact ih hruns (seqStep_ownFacts hcounted ht) htw hms rfl
    | line l =>
      rw [List.count_cons_of_ne Move.noConfusion] at hcount
      rw [runMoves_cons (mv := .line l) hfacts.ext rfl]
      exact ih h (takeMove_ownFacts (m := .line l) hcounted rfl) ((lineStep_lineBlind l _).trans hs) hms hcount
    | host c => cases hmv
    | reset => cases hmv

/-! ### SEQ's steps of one command -/

/-- SEQ is at a label of the command it latched, in the block's own system, with nothing presented. -/
structure AtLabel (i : Instr) (l : Label) (v : State) : Prop where
  busy : v.seq.phase = .busy
  pc : v.seq.pc = some l
  word : decodeCommand v.seq.cmd = .ok i
  port : v.port = none
  ext : v.ext = none

/-- The step of the micro-program at the label, when it is one that LINE's moves commute with. -/
theorem AtLabel.leads (h : AtLabel i l v) {f : State → State}
    (hstep : ∀ s, s.lineBlind = v → microSteps i l s = some (f s))
    (hf : ∀ s, (f s).lineBlind = f s.lineBlind) : SeqLeads v (f v) := by
  intro s hs
  refine ⟨f s, ?_, hs ▸ hf s⟩
  have hnext := hstep s hs
  subst hs
  have hword : s.fetchWord = some s.seq.cmd := State.fetchWord_busy h.busy
  rw [seqStep_of_decodeCommand_ok hword h.word]
  exact exec_of_microSteps (decodeCommand_ok h.word).1 h.busy h.pc hnext

/-- Such a step to another label of the command, and the run from there. -/
theorem AtLabel.runs (h : AtLabel i l v) {f : State → State} {l' : Label}
    (hstep : ∀ s, s.lineBlind = v → microSteps i l s = some (f s))
    (hf : ∀ s, (f s).lineBlind = f s.lineBlind) (hnext : AtLabel i l' (f v))
    (hruns : AtLabel i l' (f v) → SeqRuns n (f v) w) : SeqRuns (n + 1) v w :=
  .step (h.leads hstep hf) (hruns hnext)

/-- Such a step that ends the command, or this part of it. -/
theorem AtLabel.ends (h : AtLabel i l v) {f : State → State}
    (hstep : ∀ s, s.lineBlind = v → microSteps i l s = some (f s))
    (hf : ∀ s, (f s).lineBlind = f s.lineBlind) : SeqRuns 1 v (f v) :=
  .step (h.leads hstep hf) (.done _)

/-- A chain of such steps, and what is reached from its end. -/
theorem SeqRuns.andThen {P : State → Prop} (h : SeqRuns m u v) (hat : AtLabel i l v)
    (hruns : AtLabel i l v → ∃ w, SeqRuns n v w ∧ P w) : ∃ w, SeqRuns (m + n) u w ∧ P w := by
  obtain ⟨w, hw, hP⟩ := hruns hat
  exact ⟨w, h.trans hw, hP⟩

/-- The acceptance of a presented command (R99). -/
theorem State.presents.leads (hp : s.presents i []) :
    ∃ c, SeqLeads s.lineBlind (s.lineBlind.begin c (firstLabel i)) ∧
      AtLabel i (firstLabel i) (s.lineBlind.begin c (firstLabel i)) := by
  obtain ⟨hext, hidle, hfits, c, hport, hpayload, hword⟩ := hp
  obtain ⟨hcommand, hwf⟩ := decodeCommand_ok hword
  refine ⟨c, fun u hu => ?_, rfl, rfl, hword, rfl, hext⟩
  have huidle : u.seq.phase = .idle := (congrArg (fun x => x.seq.phase) hu).trans hidle
  have huport : u.port = some c := (congrArg State.port hu).trans hport
  have haccept : accept i (firstLabel i) u = u.begin c (firstLabel i) := by
    simp only [accept, huport, hwf, hpayload, hfits, Bool.and_self, if_true]
  refine ⟨u.begin c (firstLabel i), ?_, congrArg (State.begin c (firstLabel i)) hu⟩
  rw [seqStep_of_decodeCommand_ok (State.fetchWord_idle huidle huport) hword, exec_command hcommand,
    micro_idle _ _ _ _ huidle, haccept]

/-! ### What a configuration command leaves behind -/

/-- The command that was run from `s` has returned `(OK, value, [])` in `t`, with LCR and the divisor as given; IER, the
transmit path's contents, the fault marks and the parameters are as before, and the next command can be presented. -/
structure Configured (s : State) (lcr : Byte) (d : Half) (value : Word) (t : State) : Prop where
  idle : t.seq.phase = .idle
  result : t.result = some { status := 0#2, value := value, data := [] }
  port : t.port = none
  ext : t.ext = none
  lcr : t.regs.lcr = lcr
  dl : t.regs.dl = d
  ier : t.regs.ier = s.regs.ier
  sent : t.regs.sent = s.regs.sent
  faults : t.regs.faults = s.regs.faults
  params : t.params = s.params

variable {lcr : Byte} {d : Half} {value : Word}

/-- It is a fact about what LINE leaves alone. -/
theorem Configured.of_lineBlind (h : Configured s.lineBlind lcr d value t.lineBlind) : Configured s lcr d value t :=
  { h with sent := lineBlind_sent t ▸ lineBlind_sent s ▸ h.sent }

/-- Every run of the command that `s` presents, with `n` moves of SEQ and LINE's moves anywhere, ends so. -/
def Configures (n : Nat) (s : State) (lcr : Byte) (d : Half) (value : Word) : Prop :=
  ∀ ms, seqAndLine ms = true → ms.count .seq = n → ∃ t, runMoves ms s = some t ∧ Configured s lcr d value t

/-- The acceptance, then the micro-program from its first label. -/
theorem State.presents.configures (hp : s.presents i [])
    (hruns : ∀ v, v.regs.lcr = s.regs.lcr → v.regs.dl = s.regs.dl → v.params = s.params →
      AtLabel i (firstLabel i) v → ∃ w, SeqRuns n v w ∧ Configured v lcr d value w) :
    Configures (n + 1) s lcr d value := by
  intro ms hms hcount
  obtain ⟨c, haccept, hat⟩ := hp.leads
  obtain ⟨w, hw, hconf⟩ := hruns (s.lineBlind.begin c (firstLabel i)) rfl rfl rfl hat
  obtain ⟨hext, hidle, -⟩ := hp
  obtain ⟨t, ht, rfl⟩ := (SeqRuns.step haccept hw).exists_runMoves (.of_idle hext hidle) rfl hms hcount
  exact ⟨t, ht, .of_lineBlind { hconf with }⟩

/-- After a return HOST presents the next command (R99). -/
theorem Configured.present (h : Configured s lcr d value t) {c : Command} (hword : decodeCommand c.word = .ok i)
    (hpayload : c.payload = []) (hfits : payloadFits i [] = true) :
    ∃ u, u.presents i [] ∧ u.regs = t.regs ∧ u.params = t.params ∧
      ∀ ms, runMoves (.host c :: ms) t = runMoves ms u := by
  refine ⟨{ t with ticks := t.ticks + 1, port := some c }, ⟨h.ext, h.idle, hfits, c, rfl, hpayload, hword⟩, rfl, rfl,
    fun ms => runMoves_cons h.ext ?_⟩
  rcases hostPresent_cases c { t with ticks := t.ticks + 1 } with ⟨-, -, he⟩ | ⟨hno, -⟩
  · exact congrArg _ he
  · exact absurd ⟨h.idle, h.port⟩ hno

/-- One configuration command after another. -/
theorem Configures.then_present {lcr' : Byte} {d' : Half} {value' : Word} {c : Command} {ms' : List Move}
    (h : Configures m s lcr d value) (hword : decodeCommand c.word = .ok i) (hpayload : c.payload = [])
    (hfits : payloadFits i [] = true)
    (hnext : ∀ u, u.presents i [] → u.regs.lcr = lcr → u.regs.dl = d → u.params = s.params →
      Configures n u lcr' d' value')
    (hms : seqAndLine ms = true) (hcount : ms.count .seq = m)
    (hms' : seqAndLine ms' = true) (hcount' : ms'.count .seq = n) :
    ∃ t u, runMoves ms s = some t ∧ Configured s lcr d value t ∧
      runMoves (.host c :: ms') t = some u ∧ Configured s lcr' d' value' u := by
  obtain ⟨t, ht, hst⟩ := h ms hms hcount
  obtain ⟨t', hp, hregs, hparams, hrun⟩ := hst.present hword hpayload hfits
  obtain ⟨u, hu, htu⟩ :=
    hnext t' hp (hregs ▸ hst.lcr) (hregs ▸ hst.dl) (hparams.trans hst.params) ms' hms' hcount'
  refine ⟨t, u, ht, hst, (hrun ms').trans hu, { htu with ier := ?_, sent := ?_, faults := ?_, params := ?_ }⟩
  · rw [htu.ier, hregs, hst.ier]
  · rw [htu.sent, hregs, hst.sent]
  · rw [htu.faults, hregs, hst.faults]
  · rw [htu.params, hparams, hst.params]

end Sys2Proof.Machine
end

section
/-! Whole configuration commands under LINE's interference: what each leaves in LCR and the divisor and what it returns
(R69 to R79), and the statements about them. -/

namespace Sys2Proof.Machine

variable {v s : State} {i : Instr} {l l' : Label} {after : State → State} {d : Half}

/-! ### The parts that several micro-programs share -/

/-- DLAB as the view of a state shows it. -/
theorem dlab_of_lineBlind (hs : s.lineBlind = v) (h : v.dlab = true) : s.dlab = true :=
  (congrArg State.dlab hs).trans h

/-- The parameters show in it too. -/
theorem getdivRestore_of_lineBlind {b : Bool} (hs : s.lineBlind = v) (h : v.params.getdivRestore = b) :
    s.params.getdivRestore = b :=
  (congrArg (fun u => u.params.getdivRestore) hs).trans h

/-- A read of LCR into `s` and a write of it back with a field replaced: LCR holds the byte written. -/
theorem AtLabel.update_runs (h : AtLabel i l v) {w : Byte}
    (hafter : ∀ s, (after s).lineBlind = after s.lineBlind)
    (hread : ∀ s, microSteps i l s = some
      { s with rd := s.regs.lcr, seq := { s.seq with s := s.regs.lcr, pc := some l' } })
    (hwrite : ∀ s, s.seq.s = v.regs.lcr →
      microSteps i l' s = some (after { s with regs := { s.regs with lcr := w } })) :
    SeqRuns 2 v (after { v with
      rd := v.regs.lcr
      regs := { v.regs with lcr := w }
      seq := { v.seq with s := v.regs.lcr, pc := some l' } }) := by
  refine h.runs (fun s _ => hread s) (fun _ => rfl) { h with pc := rfl } fun h => ?_
  exact h.ends (fun s hs => hwrite s (congrArg (fun u => u.seq.s) hs)) fun _ => hafter _

/-- SETDIV's accesses: both latch bytes are written, and LCR is as before (R70). -/
theorem AtLabel.setdivSteps_runs (h : AtLabel i .lcrSave v)
    (hsteps : ∀ l ∈ [Label.lcrSave, .latchOpen, .divLow, .divHigh, .lcrRestore], ∀ s,
      microSteps i l s = setdivSteps d after l s)
    (hafter : ∀ s, (after s).lineBlind = after s.lineBlind) :
    SeqRuns 5 v (after { v with
      rd := v.regs.lcr
      regs := { v.regs with dll := divLo d, dlm := divHi d }
      seq := { v.seq with s := v.regs.lcr, pc := some .lcrRestore } }) := by
  simp only [List.forall_mem_cons] at hsteps
  obtain ⟨hsave, hopen, hlow, hhigh, hrestore, -⟩ := hsteps
  have hlatch : dlabOf (withLatch v.regs.lcr) = true := dlabOf_withLatch _
  refine h.runs (fun s _ => (hsave s).trans (setdivSteps_lcrSave _ d)) (fun _ => rfl) { h with pc := rfl } fun h => ?_
  refine h.runs (fun s _ => (hopen s).trans (setdivSteps_latchOpen _ d)) (fun _ => rfl) { h with pc := rfl } fun h => ?_
  refine h.runs (fun s hs => (hlow s).trans (setdivSteps_divLow _ d (dlab_of_lineBlind hs hlatch))) (fun _ => rfl)
    { h with pc := rfl } fun h => ?_
  refine h.runs (fun s hs => (hhigh s).trans (setdivSteps_divHigh _ d (dlab_of_lineBlind hs hlatch))) (fun _ => rfl)
    { h with pc := rfl } fun h => ?_
  exact h.ends (fun s _ => (hrestore s).trans (setdivSteps_lcrRestore _ d)) fun _ => hafter _

/-- LCR as GETDIV's accesses leave it: restored, or with the latch window open (R69, C3). -/
def lcrAfterGetdiv (restore : Bool) (lcr : Byte) : Byte := if restore then lcr else withLatch lcr

/-- GETDIV's accesses: both latch bytes are read, and LCR is restored when `GETDIV_RESTORE` (R69). -/
theorem AtLabel.getdivSteps_runs (h : AtLabel i .lcrSave v)
    (hsteps : ∀ l ∈ [Label.lcrSave, .latchOpen, .divLow, .divHigh, .lcrRestore], ∀ s,
      microSteps i l s = getdivSteps after l s)
    (hafter : ∀ s, (after s).lineBlind = after s.lineBlind) :
    SeqRuns (if v.params.getdivRestore then 5 else 4) v (after { v with
      rd := v.regs.dlm
      regs := { v.regs with lcr := lcrAfterGetdiv v.params.getdivRestore v.regs.lcr }
      seq := { v.seq with
        s := v.regs.lcr
        lo := v.regs.dll
        hi := v.regs.dlm
        pc := some (if v.params.getdivRestore then .lcrRestore else .divHigh) } }) := by
  simp only [List.forall_mem_cons] at hsteps
  obtain ⟨hsave, hopen, hlow, hhigh, hback, -⟩ := hsteps
  have hlatch : dlabOf (withLatch v.regs.lcr) = true := dlabOf_withLatch _
  cases hparam : v.params.getdivRestore
  all_goals
    refine h.runs (fun s _ => (hsave s).trans (getdivSteps_lcrSave _)) (fun _ => rfl) { h with pc := rfl } fun h => ?_
    refine h.runs (fun s _ => (hopen s).trans (getdivSteps_latchOpen _)) (fun _ => rfl) { h with pc := rfl } fun h => ?_
    refine h.runs (fun s hs => (hlow s).trans (getdivSteps_divLow _ (dlab_of_lineBlind hs hlatch))) (fun _ => rfl)
      { h with pc := rfl } fun h => ?_
  case false =>
    exact h.ends (fun s hs => (hhigh s).trans (getdivSteps_divHigh_last _ (dlab_of_lineBlind hs hlatch)
      (getdivRestore_of_lineBlind hs hparam))) fun _ => hafter _
  case true =>
    refine h.runs (fun s hs => (hhigh s).trans (getdivSteps_divHigh_restore _ (dlab_of_lineBlind hs hlatch)
      (getdivRestore_of_lineBlind hs hparam))) (fun _ => rfl) { h with pc := rfl } fun h => ?_
    exact h.ends (fun s hs => (hback s).trans (getdivSteps_lcrRestore _
      (getdivRestore_of_lineBlind hs hparam))) fun _ => hafter _

/-! ### The commands -/

/-- SETDIV writes the divisor and leaves LCR (R70). -/
theorem setdiv_configures (hp : s.presents (.setdiv d) []) : Configures 6 s s.regs.lcr d 0#32 := by
  refine hp.configures fun v hlcr _ _ hat => ?_
  refine ⟨_, hat.setdivSteps_runs (after := State.retOk) (fun _ _ _ => rfl) fun _ => rfl, ?_⟩
  exact ⟨rfl, rfl, hat.port, hat.ext, hlcr, divOf_divHi_divLo d, rfl, rfl, rfl, rfl⟩

/-- GETDIV returns the divisor (R69). -/
theorem getdiv_configures (hp : s.presents .getdiv []) :
    Configures (if s.params.getdivRestore then 6 else 5) s (lcrAfterGetdiv s.params.getdivRestore s.regs.lcr)
      s.regs.dl (s.regs.dl.setWidth 32) := by
  have hsteps : (if s.params.getdivRestore then 6 else 5) = (if s.params.getdivRestore then 5 else 4) + 1 := by
    split <;> rfl
  rw [hsteps]
  refine hp.configures fun v hlcr hdl hparams hat => ?_
  rw [← hparams, ← hlcr, ← hdl]
  refine ⟨_, hat.getdivSteps_runs (after := getdivReturn) (fun _ _ _ => rfl) fun _ => rfl, ?_⟩
  exact ⟨rfl, rfl, hat.port, hat.ext, rfl, rfl, rfl, rfl, rfl, rfl⟩

/-- A field setter leaves in LCR the byte it writes (R73, R75, R77). -/
theorem update_configures {w : Byte} (hp : s.presents i [])
    (hread : ∀ u, microSteps i (firstLabel i) u = some
      { u with rd := u.regs.lcr, seq := { u.seq with s := u.regs.lcr, pc := some l' } })
    (hwrite : ∀ u, u.seq.s = s.regs.lcr →
      microSteps i l' u = some (State.retOk { u with regs := { u.regs with lcr := w } })) :
    Configures 3 s w s.regs.dl 0#32 := by
  refine hp.configures fun v hlcr hdl _ hat => ?_
  refine ⟨_, hat.update_runs (after := State.retOk) (fun _ => rfl) hread fun u hu => hwrite u (hu.trans hlcr), ?_⟩
  exact ⟨rfl, rfl, hat.port, hat.ext, rfl, hdl, rfl, rfl, rfl, rfl⟩

theorem setpar_configures {p : BitVec 3} {w : Byte} (hp : s.presents (.setpar p) [])
    (hw : setPar s.regs.lcr p = some w) : Configures 3 s w s.regs.dl 0#32 :=
  update_configures hp (fun _ => setparSteps_parRead State.retOk p)
    fun _ hu => setparSteps_parWrite State.retOk (hu ▸ hw)

theorem setstop_configures {k : BitVec 1} (hp : s.presents (.setstop k) []) :
    Configures 3 s (setStb s.regs.lcr k) s.regs.dl 0#32 :=
  update_configures hp (fun _ => setstopSteps_stopRead State.retOk k)
    fun _ hu => hu ▸ setstopSteps_stopWrite State.retOk k

theorem setwlen_configures {n : BitVec 2} (hp : s.presents (.setwlen n) []) :
    Configures 3 s (setWls s.regs.lcr n) s.regs.dl 0#32 :=
  update_configures hp (fun _ => setwlenSteps_wlenRead State.retOk n)
    fun _ hu => hu ▸ setwlenSteps_wlenWrite State.retOk n

/-- A field getter returns its field of LCR (R72, R74, R76). -/
theorem report_configures {value : Byte → Word} (hp : s.presents i [])
    (hread : ∀ u, microSteps i (firstLabel i) u = some
      (State.ret .ok (value u.regs.lcr) [] { u with rd := u.regs.lcr, seq := { u.seq with t := u.regs.lcr } })) :
    Configures 2 s s.regs.lcr s.regs.dl (value s.regs.lcr) := by
  refine hp.configures fun v hlcr hdl _ hat => ⟨_, hat.ends (fun u _ => hread u) fun _ => rfl, ?_⟩
  rw [← hlcr]
  exact ⟨rfl, rfl, hat.port, hat.ext, rfl, hdl, rfl, rfl, rfl, rfl⟩

theorem getpar_configures (hp : s.presents .getpar []) :
    Configures 2 s s.regs.lcr s.regs.dl ((parDec s.regs.lcr).setWidth 32) :=
  report_configures (value := fun b => (parDec b).setWidth 32) hp getparStep_parRead

theorem getstop_configures (hp : s.presents .getstop []) :
    Configures 2 s s.regs.lcr s.regs.dl ((stb s.regs.lcr).setWidth 32) :=
  report_configures (value := fun b => (stb b).setWidth 32) hp getstopStep_stopRead

theorem getwlen_configures (hp : s.presents .getwlen []) :
    Configures 2 s s.regs.lcr s.regs.dl ((wls s.regs.lcr).setWidth 32) :=
  report_configures (value := fun b => (wls b).setWidth 32) hp getwlenStep_wlenRead

section Init

variable {h : BitVec 1} {p : BitVec 3} {k : BitVec 1} {n : BitVec 2} {w : Byte}

/-- INIT's field updates, one after the other (R78). -/
theorem AtLabel.initFields_runs (hat : AtLabel (.init h p k n d) .parRead v) (hw : setPar v.regs.lcr p = some w) :
    ∃ u, SeqRuns 6 v u ∧ Configured v (setWls (setStb w k) n) v.regs.dl 0#32 u := by
  have hpar := hat.update_runs (after := State.goto .stopRead) (fun _ => rfl)
    (fun _ => setparSteps_parRead (State.goto .stopRead) p)
    fun _ hs => setparSteps_parWrite (State.goto .stopRead) (hs ▸ hw)
  refine hpar.andThen (n := 4) (l := .stopRead) { hat with pc := rfl } fun hat => ?_
  have hstop := hat.update_runs (after := State.goto .wlenRead) (fun _ => rfl)
    (fun _ => setstopSteps_stopRead (State.goto .wlenRead) k)
    fun _ hs => hs ▸ setstopSteps_stopWrite (State.goto .wlenRead) k
  refine hstop.andThen (n := 2) (l := .wlenRead) { hat with pc := rfl } fun hat => ?_
  refine ⟨_, hat.update_runs (after := State.retOk) (fun _ => rfl) (fun _ => setwlenSteps_wlenRead State.retOk n)
    fun _ hs => hs ▸ setwlenSteps_wlenWrite State.retOk n, ?_⟩
  exact ⟨rfl, rfl, hat.port, hat.ext, rfl, rfl, rfl, rfl, rfl, rfl⟩

/-- INIT replaces the three fields of LCR, and the divisor when `HASDIV` (R78). -/
theorem init_configures (hp : s.presents (.init h p k n d) []) (hw : setPar s.regs.lcr p = some w) :
    Configures (if h = 1#1 then 12 else 7) s (setWls (setStb w k) n) (if h = 1#1 then d else s.regs.dl) 0#32 := by
  by_cases hdiv : h = 1#1
  · rw [if_pos hdiv, if_pos hdiv]
    refine hp.configures fun v hlcr _ _ hat => ?_
    rw [firstLabel, if_pos hdiv] at hat
    refine (hat.setdivSteps_runs (initSteps_setdiv hdiv) fun _ => rfl).andThen (n := 6) (l := .parRead)
      { hat with pc := rfl } fun hat => ?_
    obtain ⟨u, hu, hconf⟩ := hat.initFields_runs (hlcr ▸ hw)
    exact ⟨u, hu, { hconf with dl := hconf.dl.trans (divOf_divHi_divLo d) }⟩
  · rw [if_neg hdiv, if_neg hdiv]
    refine hp.configures fun v hlcr hdl _ hat => ?_
    rw [firstLabel, if_neg hdiv] at hat
    rw [← hdl]
    exact hat.initFields_runs (hlcr ▸ hw)

end Init

/-- GETCFG returns the divisor and the three fields of LCR as GETDIV's accesses left it (R79). -/
theorem getcfg_configures {lcr : Byte} (hp : s.presents .getcfg [])
    (hleft : lcrAfterGetdiv s.params.getdivRestore s.regs.lcr = lcr) :
    Configures (if s.params.getdivRestore then 9 else 8) s lcr s.regs.dl
      (packConfig s.regs.dl (parDec lcr) (stb lcr) (wls lcr)) := by
  have hsteps : (if s.params.getdivRestore then 9 else 8) = (if s.params.getdivRestore then 5 else 4) + 3 + 1 := by
    split <;> rfl
  rw [hsteps]
  refine hp.configures fun v hlcr hdl hparams hat => ?_
  rw [← hparams, ← hdl]
  rw [← hparams, ← hlcr] at hleft
  subst hleft
  refine (hat.getdivSteps_runs (after := State.goto .parRead) (by simp [microSteps, getcfgSteps])
    fun _ => rfl).andThen (l := .parRead) { hat with pc := rfl } fun hat => ?_
  refine ⟨_, hat.runs (fun s _ => getcfgSteps_parRead s) (fun _ => rfl) { hat with pc := rfl } fun hat =>
    hat.runs (fun s _ => getcfgSteps_stopRead s) (fun _ => rfl) { hat with pc := rfl } fun hat =>
    hat.ends (fun s _ => getcfgSteps_wlenRead s) fun _ => rfl, ?_⟩
  exact ⟨rfl, rfl, hat.port, hat.ext, rfl, rfl, rfl, rfl, rfl, rfl⟩

/-! ### The fields of LCR and of GETCFG's value -/

/-- `s | 0x80` sets bit 7 only. -/
theorem withLatch_getLsbD (v : Byte) {j : Nat} (h : j < 7) : (withLatch v).getLsbD j = v.getLsbD j := by
  interval_cases j <;> simp [withLatch]

/-- GETDIV's accesses leave every bit of LCR but DLAB. -/
theorem lcrAfterGetdiv_getLsbD (restore : Bool) (lcr : Byte) {j : Nat} (h : j < 7) :
    (lcrAfterGetdiv restore lcr).getLsbD j = lcr.getLsbD j := by
  cases restore
  · exact withLatch_getLsbD lcr h
  · rfl

/-- Where GETCFG's value holds its four parts (R79). -/
theorem packConfig_fields (d : Half) (p : BitVec 3) (k : BitVec 1) (n : BitVec 2) :
    (packConfig d p k n).extractLsb' 0 16 = d ∧ (packConfig d p k n).extractLsb' 16 3 = p ∧
    (packConfig d p k n).extractLsb' 19 1 = k ∧ (packConfig d p k n).extractLsb' 20 2 = n ∧
    (packConfig d p k n).extractLsb' 22 10 = 0#10 := by
  have hpack : packConfig d p k n =
      d.setWidth 32 <<< 0 ||| p.setWidth 32 <<< 16 ||| k.setWidth 32 <<< 19 ||| n.setWidth 32 <<< 20 := by
    rw [BitVec.shiftLeft_zero]
    rfl
  simp (disch := decide) only [hpack, BitVec.extractLsb'_or, extractLsb'_shiftLeft_same,
    extractLsb'_shiftLeft_disjoint, BitVec.or_zero, BitVec.zero_or, and_self]

/-! ### The obligations -/

/-- Settles O37: SETDIV leaves the divisor in the latch, and GETDIV returns what the latch holds. -/
theorem setdivThenGetdivReturnsDivisor : Obligations.SetdivThenGetdivReturnsDivisor := by
  intro s d ms ms' hp hms hcount hms' hcount'
  obtain ⟨t, u, ht, hset, hu, hget⟩ := (setdiv_configures hp).then_present (i := .getdiv)
    (c := { word := 0x00000001#32, payload := [] }) (by decide) rfl rfl
    (fun u hpu hlcr hdl hparams => hparams ▸ hlcr ▸ hdl ▸ getdiv_configures hpu) hms hcount hms' hcount'
  exact ⟨t, u, ht, hset.idle, hset.result, hset.dl, hset.lcr, hset.ier, hset.sent, hu, hget.idle, hget.result,
    hget.dl, hget.lcr⟩

/-- Settles O38: each setter leaves its field in LCR with the other bits kept, and the getter returns that field. -/
theorem fieldCommandsRoundTrip : Obligations.FieldCommandsRoundTrip := by
  intro s ms ms' hms hcount hms' hcount'
  refine ⟨fun p hpar hp => ?_, fun k hp => ?_, fun n hp => ?_⟩
  · obtain ⟨w, hw, hdec, hhigh, hlow⟩ := parityCodecRoundTrip p s.regs.lcr hpar
    obtain ⟨t, u, ht, -, hu, hget⟩ := (setpar_configures hp hw).then_present (i := .getpar)
      (c := { word := 0x00000003#32, payload := [] }) (by decide) rfl rfl
      (fun u hpu hlcr hdl _ => hlcr ▸ hdl ▸ getpar_configures hpu) hms hcount hms' hcount'
    refine ⟨u, (runMoves_append ht).trans hu, hget.idle, hdec ▸ hget.result, ?_, ?_, hget.dl, hget.ier⟩
    · rw [hget.lcr, hhigh]
    · rw [hget.lcr, hlow]
  · obtain ⟨-, hstop, -⟩ := wordLengthAndStopFields
    obtain ⟨-, -, hstb, hhigh, hlow⟩ := hstop s.regs.lcr k
    obtain ⟨t, u, ht, -, hu, hget⟩ := (setstop_configures hp).then_present (i := .getstop)
      (c := { word := 0x00000005#32, payload := [] }) (by decide) rfl rfl
      (fun u hpu hlcr hdl _ => hlcr ▸ hdl ▸ getstop_configures hpu) hms hcount hms' hcount'
    refine ⟨u, (runMoves_append ht).trans hu, hget.idle, ?_, ?_, ?_, hget.dl, hget.ier⟩
    · rw [hget.result, hstb]
    · rw [hget.lcr, hhigh]
    · rw [hget.lcr, hlow]
  · obtain ⟨hwlen, -⟩ := wordLengthAndStopFields
    obtain ⟨-, -, hwls, hhigh, -⟩ := hwlen s.regs.lcr n
    obtain ⟨t, u, ht, -, hu, hget⟩ := (setwlen_configures hp).then_present (i := .getwlen)
      (c := { word := 0x00000007#32, payload := [] }) (by decide) rfl rfl
      (fun u hpu hlcr hdl _ => hlcr ▸ hdl ▸ getwlen_configures hpu) hms hcount hms' hcount'
    refine ⟨u, (runMoves_append ht).trans hu, hget.idle, ?_, ?_, hget.dl, hget.ier⟩
    · rw [hget.result, hwls]
    · rw [hget.lcr, hhigh]

/-- Settles O39: the byte that INIT writes last has the three fields, since each later writer leaves the earlier
fields. -/
theorem initAppliesConfiguration : Obligations.InitAppliesConfiguration := by
  intro s h p k n d ms hp hpar hms hcount
  obtain ⟨w, hw, hdec, hkept, -⟩ := parityCodecRoundTrip p s.regs.lcr hpar
  obtain ⟨t, ht, hconf⟩ := init_configures hp hw ms hms hcount
  have hhigh : (setWls (setStb w k) n).extractLsb' 6 2 = s.regs.lcr.extractLsb' 6 2 := by
    rw [← hkept]
    exact extractLsb'_congr fun j hj _ =>
      (setWls_getLsbD _ n (by omega)).trans (setStb_getLsbD w k (by omega))
  refine ⟨t, ht, hconf.idle, hconf.result, ?_, ?_, ?_, ?_, hconf.dl, hconf.ier, hconf.sent, hconf.faults⟩ <;>
    rw [hconf.lcr]
  · rw [parDec_setWls, parDec_setStb, hdec]
  · rw [stb_setWls, stb_setStb]
  · rw [wls_setWls]
  · rw [hhigh]

/-- Settles O40: GETCFG packs the divisor and the fields of LCR, which its open latch window, if it is left open, does
not touch. -/
theorem getcfgReportsConfiguration : Obligations.GetcfgReportsConfiguration := by
  intro s ms hp hms hcount
  obtain ⟨t, ht, hconf⟩ := getcfg_configures hp rfl ms hms hcount
  have hbits (j : Nat) (hj : j < 7) := lcrAfterGetdiv_getLsbD s.params.getdivRestore s.regs.lcr hj
  obtain ⟨hd, hpar, hk, hn, hzero⟩ := packConfig_fields s.regs.dl
    (parDec (lcrAfterGetdiv s.params.getdivRestore s.regs.lcr))
    (stb (lcrAfterGetdiv s.params.getdivRestore s.regs.lcr))
    (wls (lcrAfterGetdiv s.params.getdivRestore s.regs.lcr))
  refine ⟨t, _, ht, hconf.idle, hconf.result, hd, hpar.trans ?_, hk.trans ?_, hn.trans ?_, hzero, hconf.lcr, hconf.dl,
    hconf.ier⟩
  · exact parDec_congr fun j _ hj => hbits j (by omega)
  · exact extractLsb'_congr fun j _ hj => hbits j (by omega)
  · exact extractLsb'_congr fun j _ hj => hbits j (by omega)

end Sys2Proof.Machine
end

section
/-! The transfer micro-programs, label by label (R82 to R89): the next state of each poll, data access and spin hint,
written out, and the statements about them. -/

namespace Sys2Proof.Machine

variable {s : State} {len : Half}

/-! ### Polls -/

/-- A poll is one read of LSR into `t` (R60, R82). -/
theorem poll_eq (s : State) : poll s = { lsrRead s with seq := { s.seq with t := s.regs.lsr } } := by
  rw [poll, readIntoT, busRead_lsr]
  rfl

/-- What the tests on the polled value say of the state before the poll (R14). -/
theorem polledDr_poll (s : State) : polledDr (poll s).seq.t = decide (s.regs.rxq ≠ []) := by
  rw [poll_seq, polledDr_lsr, Regs.dr_eq_decide]
theorem polledThre_poll (s : State) : polledThre (poll s).seq.t = decide (s.regs.txq = []) := by
  rw [poll_seq, polledThre_lsr, Regs.thre_eq_decide]
theorem polledTemt_poll (s : State) :
    polledTemt (poll s).seq.t = decide (s.regs.txq = [] ∧ s.regs.tsr = none) := by
  rw [poll_seq, polledTemt_lsr, Regs.temt_eq_decide]

/-- After its poll a step goes to a label or returns. -/
theorem poll_goto (l : Label) (s : State) :
    (poll s).goto l = { lsrRead s with seq := { s.seq with t := s.regs.lsr, pc := some l } } := by
  rw [poll_eq]
  rfl
theorem poll_ret (st : Status) (v : Word) (data : List Byte) (s : State) :
    (poll s).ret st v data =
      { lsrRead s with
        seq := { s.seq with t := s.regs.lsr, phase := .idle, pc := none }
        result := some { status := st.code, value := v, data := data } } := by
  rw [poll_eq]
  rfl

/-! ### READ -/

/-- With a slot to fill the first loop test passes. -/
theorem zero_lt_len (h : len ≠ 0#16) : 0#16 < len := by
  bv_omega

theorem readLoop_of_lt (h : s.seq.i < len) : readLoop len s = s.goto .poll := if_pos h
theorem readLoop_of_not_lt (h : ¬ s.seq.i < len) : readLoop len s = readReturn s := if_neg h

/-- READ's start (R82, log 13). -/
theorem readSteps_start_zero : readSteps 0#16 .start s = some
    { s with
      seq := { s.seq with i := 0#16, cnt := 0#16, out := [], phase := .idle, pc := none }
      result := some { status := 0#2, value := 0#32, data := [] } } :=
  congrArg some (readLoop_of_not_lt (BitVec.lt_irrefl 0#16))
theorem readSteps_start_pos (h : len ≠ 0#16) : readSteps len .start s = some
    { s with seq := { s.seq with i := 0#16, cnt := 0#16, out := [], pc := some .poll } } :=
  congrArg some (readLoop_of_lt (zero_lt_len h))

/-- READ's poll, by whether it sees DR. -/
theorem readSteps_poll_received (len : Half) (h : s.regs.rxq ≠ []) : readSteps len .poll s = some
    { lsrRead s with seq := { s.seq with t := s.regs.lsr, pc := some .data } } := by
  rw [readSteps, polledDr_poll, if_pos (decide_eq_true h), poll_goto]
theorem readSteps_poll_empty (len : Half) (h : s.regs.rxq = []) : readSteps len .poll s = some
    { lsrRead s with
      seq := { s.seq with t := s.regs.lsr, phase := .idle, pc := none }
      result := some { status := 0#2, value := s.seq.cnt.setWidth 32, data := s.seq.out } } := by
  rw [readSteps, polledDr_poll, if_neg (by simpa using h), readReturn, poll_ret, poll_seq]
  rfl

/-- READ's data access. -/
theorem readSteps_data : readSteps len .data s = some (readLoop len
    { busRead offA s with
      seq := { s.seq with
        out := s.seq.out ++ [(busRead offA s).rd], cnt := s.seq.cnt + 1#16, i := s.seq.i + 1#16 } }) := by
  rw [readSteps, busRead_seq]

/-! ### WRITE -/

theorem writeLoop_of_lt (h : s.seq.i < len) : writeLoop len s = s.goto .poll := if_pos h
theorem writeLoop_of_not_lt (h : ¬ s.seq.i < len) : writeLoop len s = writeReturn s := if_neg h

/-- WRITE's start (R83, log 13). -/
theorem writeSteps_start_zero : writeSteps 0#16 .start s = some
    { s with
      seq := { s.seq with i := 0#16, cnt := 0#16, phase := .idle, pc := none }
      result := some { status := 0#2, value := 0#32, data := [] } } :=
  congrArg some (writeLoop_of_not_lt (BitVec.lt_irrefl 0#16))
theorem writeSteps_start_pos (h : len ≠ 0#16) : writeSteps len .start s = some
    { s with seq := { s.seq with i := 0#16, cnt := 0#16, pc := some .poll } } :=
  congrArg some (writeLoop_of_lt (zero_lt_len h))

/-- WRITE's poll, by whether it sees THRE. -/
theorem writeSteps_poll_empty (len : Half) (h : s.regs.txq = []) : writeSteps len .poll s = some
    { lsrRead s with seq := { s.seq with t := s.regs.lsr, pc := some .data } } := by
  rw [writeSteps, polledThre_poll, if_pos (decide_eq_true h), poll_goto]
theorem writeSteps_poll_held (len : Half) (h : s.regs.txq ≠ []) : writeSteps len .poll s = some
    { lsrRead s with
      seq := { s.seq with t := s.regs.lsr, phase := .idle, pc := none }
      result := some { status := 0#2, value := s.seq.cnt.setWidth 32, data := [] } } := by
  rw [writeSteps, polledThre_poll, if_neg (by simpa using h), writeReturn, poll_ret, poll_seq]
  rfl

/-- WRITE's data access. -/
theorem writeSteps_data {b : Byte} (hb : s.seq.payload[s.seq.i.toNat]? = some b) : writeSteps len .data s = some
    (writeLoop len
      { busWrite offA b s with seq := { s.seq with cnt := s.seq.cnt + 1#16, i := s.seq.i + 1#16 } }) := by
  simp only [writeSteps, hb, busWrite_seq]

/-! ### FLUSH -/

/-- FLUSH's poll, by whether it sees TEMT, and its spin hint (R84). -/
theorem flushSteps_poll_drained (hq : s.regs.txq = []) (ht : s.regs.tsr = none) : flushSteps .poll s = some
    { lsrRead s with
      seq := { s.seq with t := s.regs.lsr, phase := .idle, pc := none }
      result := some { status := 0#2, value := 0#32, data := [] } } := by
  rw [flushSteps, polledTemt_poll, if_pos (decide_eq_true ⟨hq, ht⟩), poll_ret]
  rfl
theorem flushSteps_poll_busy (h : s.regs.txq ≠ [] ∨ s.regs.tsr ≠ none) : flushSteps .poll s = some
    { lsrRead s with seq := { s.seq with t := s.regs.lsr, pc := some .spin } } := by
  rw [flushSteps, polledTemt_poll, if_neg (by simpa [← not_and_or] using h), poll_goto]
theorem flushSteps_spin : flushSteps .spin s = some { s with seq := { s.seq with pc := some .poll } } := rfl

/-! ### The one-word commands and the readiness queries -/

/-- RDNB's steps (R87). -/
theorem rdnbSteps_poll_received (h : s.regs.rxq ≠ []) : rdnbSteps .poll s = some
    { lsrRead s with seq := { s.seq with t := s.regs.lsr, pc := some .data } } := by
  rw [rdnbSteps, polledDr_poll, if_pos (decide_eq_true h), poll_goto]
theorem rdnbSteps_poll_empty (h : s.regs.rxq = []) : rdnbSteps .poll s = some
    { lsrRead s with
      seq := { s.seq with t := s.regs.lsr, phase := .idle, pc := none }
      result := some { status := 1#2, value := 0#32, data := [] } } := by
  rw [rdnbSteps, polledDr_poll, if_neg (by simpa using h), State.retWouldBlock, poll_ret]
  rfl
theorem rdnbSteps_data : rdnbSteps .data s = some
    { busRead offA s with
      seq := { s.seq with phase := .idle, pc := none }
      result := some { status := 0#2, value := (busRead offA s).rd.setWidth 32, data := [] } } := by
  rw [← busRead_seq offA s]
  rfl

/-- WRNB's steps (R88). -/
theorem wrnbSteps_poll_empty (b : Byte) (h : s.regs.txq = []) : wrnbSteps b .poll s = some
    { lsrRead s with seq := { s.seq with t := s.regs.lsr, pc := some .data } } := by
  rw [wrnbSteps, polledThre_poll, if_pos (decide_eq_true h), poll_goto]
theorem wrnbSteps_poll_held (b : Byte) (h : s.regs.txq ≠ []) : wrnbSteps b .poll s = some
    { lsrRead s with
      seq := { s.seq with t := s.regs.lsr, phase := .idle, pc := none }
      result := some { status := 1#2, value := 0#32, data := [] } } := by
  rw [wrnbSteps, polledThre_poll, if_neg (by simpa using h), State.retWouldBlock, poll_ret]
  rfl
theorem wrnbSteps_data {b : Byte} : wrnbSteps b .data s = some
    { busWrite offA b s with
      seq := { s.seq with phase := .idle, pc := none }
      result := some { status := 0#2, value := 0#32, data := [] } } := by
  rw [← busWrite_seq offA b s]
  rfl

/-- FLNB's one step (R89). -/
theorem flnbStep_poll : flnbStep .poll s = some
    { lsrRead s with
      seq := { s.seq with t := s.regs.lsr, phase := .idle, pc := none }
      result := some
        { status := if s.regs.txq = [] ∧ s.regs.tsr = none then 0#2 else 1#2, value := 0#32, data := [] } } := by
  by_cases h : s.regs.txq = [] ∧ s.regs.tsr = none
  · rw [flnbStep, polledTemt_poll, if_pos (decide_eq_true h), if_pos h, poll_ret]
    rfl
  · rw [flnbStep, polledTemt_poll, if_neg (by simpa using h), if_neg h, State.retWouldBlock, poll_ret]
    rfl

/-- The queries' one step (R85, R86). -/
theorem rdrdyStep_poll : rdrdyStep .poll s = some
    { lsrRead s with
      seq := { s.seq with t := s.regs.lsr, phase := .idle, pc := none }
      result := some { status := 0#2, value := if s.regs.rxq = [] then 0#32 else 1#32, data := [] } } := by
  rw [rdrdyStep, polledDr_poll, poll_ret]
  by_cases h : s.regs.rxq = [] <;> simp [h]
theorem wrrdyStep_poll : wrrdyStep .poll s = some
    { lsrRead s with
      seq := { s.seq with t := s.regs.lsr, phase := .idle, pc := none }
      result := some { status := 0#2, value := if s.regs.txq = [] then 1#32 else 0#32, data := [] } } := by
  rw [wrrdyStep, polledThre_poll, poll_ret]
  by_cases h : s.regs.txq = [] <;> simp [h]

/-! ### The obligations -/

/-- Settles O32: READ's steps, with register A as the multiplexer selects it and the loop test after each data
access. -/
theorem readMicroProgram : Obligations.ReadMicroProgram := by
  intro s len hbusy
  refine ⟨fun hpc hlen => ?_, fun hpc hlen => ?_, fun hpc hq => ?_, fun hpc hq => ?_, fun u hpc hu => ?_⟩
  · subst hlen
    exact exec_of_microSteps rfl hbusy hpc readSteps_start_zero
  · exact exec_of_microSteps rfl hbusy hpc (readSteps_start_pos hlen)
  · exact exec_of_microSteps rfl hbusy hpc (readSteps_poll_received len hq)
  · exact exec_of_microSteps rfl hbusy hpc (readSteps_poll_empty len hq)
  · obtain rfl : busRead offA s = u := (busRead_offA s).trans hu.symm
    exact exec_of_microSteps rfl hbusy hpc readSteps_data

/-- Settles O33: WRITE's steps likewise, with the payload byte of the slot. -/
theorem writeMicroProgram : Obligations.WriteMicroProgram := by
  intro s len hbusy
  refine ⟨fun hpc hlen => ?_, fun hpc hlen => ?_, fun hpc hq => ?_, fun hpc hq => ?_, fun b u hpc hb hu => ?_⟩
  · subst hlen
    exact exec_of_microSteps rfl hbusy hpc writeSteps_start_zero
  · exact exec_of_microSteps rfl hbusy hpc (writeSteps_start_pos hlen)
  · exact exec_of_microSteps rfl hbusy hpc (writeSteps_poll_empty len hq)
  · exact exec_of_microSteps rfl hbusy hpc (writeSteps_poll_held len hq)
  · obtain rfl : busWrite offA b s = u := (busWrite_offA b s).trans hu.symm
    exact exec_of_microSteps rfl hbusy hpc (writeSteps_data hb)

/-- Settles O34: FLUSH's poll returns or goes to the spin hint, which goes back. -/
theorem flushMicroProgram : Obligations.FlushMicroProgram := by
  intro s hbusy
  refine ⟨fun hpc hq ht => ?_, fun hpc h => ?_, fun hpc => ?_⟩
  · exact exec_of_microSteps rfl hbusy hpc (flushSteps_poll_drained hq ht)
  · exact exec_of_microSteps rfl hbusy hpc (flushSteps_poll_busy h)
  · exact exec_of_microSteps rfl hbusy hpc flushSteps_spin

/-- Settles O35: each query is one poll and the return of its flag. -/
theorem readinessQueriesReturnFlag : Obligations.ReadinessQueriesReturnFlag := fun _ hbusy hpc =>
  ⟨exec_of_microSteps rfl hbusy hpc rdrdyStep_poll, exec_of_microSteps rfl hbusy hpc wrrdyStep_poll⟩

/-- Settles O36: one poll, which returns or leads to the one data access. -/
theorem singleWordMicroPrograms : Obligations.SingleWordMicroPrograms := by
  intro s b hbusy
  refine ⟨fun hpc => ⟨fun hq => ?_, fun hq => ?_, fun hq => ?_, fun hq => ?_, ?_⟩,
    fun hpc => ⟨fun u hu => ?_, fun u hu => ?_⟩⟩
  · exact exec_of_microSteps rfl hbusy hpc (rdnbSteps_poll_received hq)
  · exact exec_of_microSteps rfl hbusy hpc (rdnbSteps_poll_empty hq)
  · exact exec_of_microSteps rfl hbusy hpc (wrnbSteps_poll_empty b hq)
  · exact exec_of_microSteps rfl hbusy hpc (wrnbSteps_poll_held b hq)
  · exact exec_of_microSteps rfl hbusy hpc flnbStep_poll
  · obtain rfl : busRead offA s = u := (busRead_offA s).trans hu.symm
    exact exec_of_microSteps rfl hbusy hpc rdnbSteps_data
  · obtain rfl : busWrite offA b s = u := (busWrite_offA b s).trans hu.symm
    exact exec_of_microSteps rfl hbusy hpc wrnbSteps_data

end Sys2Proof.Machine
end

section
/-! Single moves of a run: SEQ's step at a label of its command, its acceptance, what LINE's moves leave of both, and
the induction over a finite run. -/

namespace Sys2Proof.Machine

variable {s t : State} {i : Instr} {l : Label} {ms : List Move}

/-! ### SEQ at a label -/

/-- SEQ is at a label of the command it latched, in the block's own system; the command port is left open. -/
structure AtStep (i : Instr) (l : Label) (s : State) : Prop where
  ext : s.ext = none
  busy : s.seq.phase = .busy
  pc : s.seq.pc = some l
  word : decodeCommand s.seq.cmd = .ok i

/-- At a label SEQ takes the micro-program's step (R22). -/
theorem AtStep.next (h : AtStep i l s) (hstep : microSteps i l s = some t) : seqStep s = .next t :=
  (seqStep_of_decodeCommand_ok (State.fetchWord_busy h.busy) h.word).trans
    (exec_of_microSteps (decodeCommand_ok h.word).1 h.busy h.pc hstep)

/-- And its step can be nothing else. -/
theorem AtStep.microSteps_of_next (h : AtStep i l s) (hstep : seqStep s = .next t) : microSteps i l s = some t := by
  rw [seqStep_of_decodeCommand_ok (State.fetchWord_busy h.busy) h.word, exec_command (decodeCommand_ok h.word).1]
    at hstep
  rcases micro_next hstep with ⟨hidle, -⟩ | ⟨l', -, hpc, hmicro⟩
  · cases hidle.symm.trans h.busy
  · cases hpc.symm.trans h.pc
    exact hmicro

/-- It stays there while SEQ does not change. -/
theorem AtStep.of_seq_eq (h : AtStep i l s) (hext : t.ext = s.ext) (hseq : t.seq = s.seq) : AtStep i l t :=
  ⟨hext.trans h.ext, hseq ▸ h.busy, hseq ▸ h.pc, hseq ▸ h.word⟩

/-- The count of moves says nothing about SEQ. -/
theorem AtStep.counted (h : AtStep i l s) : AtStep i l { s with ticks := s.ticks + 1 } := h.of_seq_eq rfl rfl

/-! ### SEQ between commands -/

/-- SEQ waits when nothing is presented (R113). -/
theorem seqStep_of_idle (hidle : s.seq.phase = .idle) (hport : s.port = none) : seqStep s = .next s := by
  simp only [seqStep, State.fetchWord, hidle, hport, Option.map_none]

/-- The presented command is accepted, and SEQ is at its first label (R99). -/
theorem State.presents.next {payload : List Byte} (h : s.presents i payload) :
    ∃ c, c.payload = payload ∧ seqStep s = .next (s.begin c (firstLabel i)) ∧
      AtStep i (firstLabel i) (s.begin c (firstLabel i)) := by
  obtain ⟨hext, hidle, hfits, c, hport, rfl, hword⟩ := h
  obtain ⟨hcommand, hwf⟩ := decodeCommand_ok hword
  refine ⟨c, rfl, ?_, hext, rfl, rfl, hword⟩
  rw [seqStep_of_decodeCommand_ok (State.fetchWord_idle hidle hport) hword, exec_command hcommand,
    micro_idle _ _ _ _ hidle]
  simp only [accept, hport, hwf, hfits, Bool.and_self, if_true]

/-! ### While SEQ does not move -/

/-- What a move of LINE, and the counting of a move, leave as it was, and the flags they do not clear (R33, R92). -/
structure Undisturbed (s t : State) : Prop where
  ext : t.ext = s.ext
  params : t.params = s.params
  seq : t.seq = s.seq
  port : t.port = s.port
  result : t.result = s.result
  lcr : t.regs.lcr = s.regs.lcr
  dl : t.regs.dl = s.regs.dl
  faults : t.regs.faults = s.regs.faults
  sent : t.regs.sent = s.regs.sent
  dr : s.regs.dr = true → t.regs.dr = true
  thre : s.regs.thre = true → t.regs.thre = true
  temt : s.regs.temt = true → t.regs.temt = true
  wf : s.wf = true → t.wf = true

theorem undisturbed_ticks (s : State) (n : Nat) : Undisturbed s { s with ticks := n } :=
  ⟨rfl, rfl, rfl, rfl, rfl, rfl, rfl, rfl, rfl, id, id, id, id⟩

theorem undisturbed_lineStep (m : LineStep) (s : State) : Undisturbed s (lineStep m s) :=
  have hsame := lineStep_sameOutsideLine m s
  have hblind := lineStep_lineBlind m s
  { ext := hsame.ext
    params := hsame.params
    seq := hsame.seq
    port := hsame.port
    result := hsame.result
    lcr := lineStep_lcr m s
    dl := (congrArg (fun u => u.regs.dl) hblind :)
    faults := (congrArg (fun u => u.regs.faults) hblind :)
    sent := lineStep_sent m s
    dr := lineStep_dr
    thre := lineStep_thre
    temt := lineStep_temt
    wf := lineStep_wf m }

theorem Undisturbed.trans {u : State} (h : Undisturbed s t) (h' : Undisturbed t u) : Undisturbed s u where
  ext := h'.ext.trans h.ext
  params := h'.params.trans h.params
  seq := h'.seq.trans h.seq
  port := h'.port.trans h.port
  result := h'.result.trans h.result
  lcr := h'.lcr.trans h.lcr
  dl := h'.dl.trans h.dl
  faults := h'.faults.trans h.faults
  sent := h'.sent.trans h.sent
  dr := h'.dr ∘ h.dr
  thre := h'.thre ∘ h.thre
  temt := h'.temt ∘ h.temt
  wf := h'.wf ∘ h.wf

/-- A move of LINE, counted. -/
theorem undisturbed_move (m : LineStep) (s : State) : Undisturbed s (lineStep m { s with ticks := s.ticks + 1 }) :=
  (undisturbed_ticks s _).trans (undisturbed_lineStep m _)

theorem Undisturbed.atStep (h : Undisturbed s t) (hat : AtStep i l s) : AtStep i l t := hat.of_seq_eq h.ext h.seq

theorem Undisturbed.presents {payload : List Byte} (h : Undisturbed s t) (hp : s.presents i payload) :
    t.presents i payload := by
  obtain ⟨hext, hidle, hfits, hc⟩ := hp
  exact ⟨h.ext.trans hext, h.seq ▸ hidle, hfits, h.port ▸ hc⟩

/-! ### Sound states -/

/-- A well-formed state of the block's own system, with what polls and latch windows promise (O55, O56). -/
structure Sound (s : State) : Prop where
  wf : s.wf = true
  facts : OwnFacts s

theorem Sound.line (h : Sound s) (hline : Undisturbed s t) : Sound t where
  wf := hline.wf h.wf
  facts := h.facts.of_seq_eq hline.ext hline.seq (congrArg dlabOf hline.lcr) hline.dr hline.thre

/-- SEQ has a step, and it leads to a sound state. -/
theorem Sound.next (h : Sound s) : ∃ t, seqStep s = .next t ∧ Sound t := by
  obtain ⟨t, ht, hwf⟩ := seqStep_wf h.wf
  exact ⟨t, ht, hwf, seqStep_ownFacts h.facts ht⟩

/-- At a label the latched command is in flight, with the slot counters in step. -/
theorem Sound.inCommand (h : Sound s) (hat : AtStep i l s) :
    InCommand s.params i s ∧ l ∈ labelsOf s.params.getdivRestore i ∧ slotsCounted i l s.seq = true := by
  obtain ⟨j, l', hin, hpc, hl, hslots⟩ := State.inCommand_of_wf_busy h.wf hat.busy
  cases hin.word.symm.trans hat.word
  cases hpc.symm.trans hat.pc
  exact ⟨hin, hl, hslots⟩

/-- A presented command to a well-formed block. -/
theorem State.presents.sound {payload : List Byte} (hp : s.presents i payload) (hwf : s.wf = true) : Sound s := by
  obtain ⟨hext, hidle, -⟩ := hp
  exact ⟨hwf, .of_idle hext hidle⟩

/-! ### Runs -/

/-- `P` holds on along every run of SEQ's and LINE's moves in the block's own system. -/
structure Stable (P : State → Prop) : Prop where
  ext : ∀ {s}, P s → s.ext = none
  line : ∀ {s t}, P s → Undisturbed s t → P t
  seq : ∀ {s t}, P s → seqStep s = .next t → P t

theorem Stable.after_run {P : State → Prop} (h : Stable P) (hms : seqAndLine ms = true)
    (hrun : runMoves ms s = some t) (hs : P s) : P t := by
  induction ms generalizing s with
  | nil =>
    cases hrun
    exact hs
  | cons mv ms ih =>
    simp only [seqAndLine, List.all_cons, Bool.and_eq_true] at hms
    obtain ⟨hmv, hms⟩ := hms
    cases mv with
    | seq =>
      simp only [runMoves, step_schedule .seq s (h.ext hs)] at hrun
      split at hrun
      next u hu => exact ih hms hrun (h.seq (h.line hs (undisturbed_ticks s _)) hu)
      next => cases hrun
      next => cases hrun
    | line m =>
      rw [runMoves_cons (mv := .line m) (h.ext hs) rfl] at hrun
      exact ih hms hrun (h.line hs (undisturbed_move m s))
    | host c => cases hmv
    | reset => cases hmv

theorem stable_sound : Stable Sound where
  ext h := h.facts.ext
  line := Sound.line
  seq h hstep := by
    obtain ⟨u, hu, hsound⟩ := h.next
    cases hu.symm.trans hstep
    exact hsound

/-- A count of SEQ's moves from a sound state: when each of them takes one off `n`, a run with `n` of them ends with
none left. -/
theorem exists_runMoves_of_countdown {P : Nat → State → Prop}
    (hline : ∀ {n s t}, P n s → Undisturbed s t → P n t)
    (hseq : ∀ {n s t}, Sound s → P n s → seqStep s = .next t → Sound t → P (n - 1) t) {n : Nat} (hs : Sound s)
    (hP : P n s) (hms : seqAndLine ms = true) (hcount : n ≤ ms.count .seq) :
    ∃ t, runMoves ms s = some t ∧ Sound t ∧ P 0 t := by
  induction ms generalizing n s with
  | nil =>
    obtain rfl : n = 0 := Nat.le_zero.mp hcount
    exact ⟨s, rfl, hs, hP⟩
  | cons mv ms ih =>
    simp only [seqAndLine, List.all_cons, Bool.and_eq_true] at hms
    obtain ⟨hmv, hms⟩ := hms
    cases mv with
    | seq =>
      have hcounted := undisturbed_ticks s (s.ticks + 1)
      obtain ⟨u, hu, hsound⟩ := (hs.line hcounted).next
      rw [runMoves_cons (mv := .seq) hs.facts.ext hu]
      rw [List.count_cons_self] at hcount
      exact ih hsound (hseq (hs.line hcounted) (hline hP hcounted) hu hsound) hms (Nat.sub_le_of_le_add hcount)
    | line m =>
      rw [runMoves_cons (mv := .line m) hs.facts.ext rfl]
      rw [List.count_cons_of_ne Move.noConfusion] at hcount
      have hmoved := undisturbed_move m s
      exact ih (hs.line hmoved) (hline hP hmoved) hms hcount
    | host c => cases hmv
    | reset => cases hmv

/-- An enabled `tx_done` puts the shift register's byte on the wire (R95). -/
theorem runMoves_txDone {b : Byte} (hext : s.ext = none) (ht : s.regs.tsr = some b) :
    runMoves (.line .txDone :: ms) s = runMoves ms
      { s with ticks := s.ticks + 1, regs := { s.regs with wire := s.regs.wire ++ [b], tsr := none } } :=
  runMoves_cons hext (by simp only [takeMove, lineStep, txDone, ht])

/-- A delivery to a RXQ with room appends (R93). -/
theorem runMoves_rxDeliver (b : Byte) (hext : s.ext = none) (hroom : s.regs.rxq.length < s.params.rxDepth) :
    runMoves (.line (.rxDeliver b) :: ms) s = runMoves ms
      { s with ticks := s.ticks + 1, regs := { s.regs with rxq := s.regs.rxq ++ [b] } } :=
  runMoves_cons hext (by simp only [takeMove, lineStep, rxDeliver, hroom, if_true])

/-- A read of LSR changes the error flags only (R60). -/
theorem lsrRead_clearErrors (s : State) : (lsrRead s).regs.clearErrors = s.regs.clearErrors := by
  simp only [lsrRead]
  split <;> rfl

end Sys2Proof.Machine
end

section
/-! FLUSH (R84) over runs: it returns only when the transmitter is drained, after as many polls as that takes, and under
`LINE_FAIR` it does return. -/

namespace Sys2Proof.Machine

variable {s t : State}

/-! ### FLUSH's steps in a run -/

/-- FLUSH has returned `(OK, 0, [])`. -/
structure FlushReturned (t : State) : Prop where
  idle : t.seq.phase = .idle
  result : t.result = some { status := 0#2, value := 0#32, data := [] }

/-- FLUSH is running, at either of its labels. -/
def Flushing (s : State) : Prop := AtStep .flush .poll s ∨ AtStep .flush .spin s

theorem Flushing.ext (h : Flushing s) : s.ext = none := h.elim AtStep.ext AtStep.ext

/-- What no step of FLUSH changes: the bus, the command port, and all of REGS but the error flags. -/
structure FlushKeeps (s t : State) : Prop where
  ext : t.ext = s.ext
  port : t.port = s.port
  regs : t.regs.clearErrors = s.regs.clearErrors

theorem AtStep.flush_drained (h : AtStep .flush .poll s) (hdrained : s.regs.temt = true) :
    ∃ t, seqStep s = .next t ∧ FlushReturned t ∧ FlushKeeps s t := by
  rw [Regs.temt_eq_decide, decide_eq_true_eq] at hdrained
  exact ⟨_, h.next (flushSteps_poll_drained hdrained.1 hdrained.2), ⟨rfl, rfl⟩, rfl, rfl, lsrRead_clearErrors s⟩

theorem AtStep.flush_busy (h : AtStep .flush .poll s) (hbusy : s.regs.temt = false) :
    ∃ t, seqStep s = .next t ∧ AtStep .flush .spin t ∧ FlushKeeps s t := by
  rw [Regs.temt_eq_decide, decide_eq_false_iff_not, not_and_or] at hbusy
  exact ⟨_, h.next (flushSteps_poll_busy hbusy), { h with pc := rfl }, rfl, rfl, lsrRead_clearErrors s⟩

theorem AtStep.flush_spin (h : AtStep .flush .spin s) :
    ∃ t, seqStep s = .next t ∧ AtStep .flush .poll t ∧ FlushKeeps s t :=
  ⟨_, h.next flushSteps_spin, { h with pc := rfl }, rfl, rfl, rfl⟩

/-- A step of a running FLUSH returns from a drained transmitter, or goes on polling. -/
theorem Flushing.next (h : Flushing s) :
    ∃ t, seqStep s = .next t ∧ FlushKeeps s t ∧ (Flushing t ∨ s.regs.temt = true ∧ FlushReturned t) := by
  rcases h with h | h
  · cases hdrained : s.regs.temt
    case true =>
      obtain ⟨t, ht, hreturned, hkeeps⟩ := h.flush_drained hdrained
      exact ⟨t, ht, hkeeps, .inr ⟨rfl, hreturned⟩⟩
    case false =>
      obtain ⟨t, ht, hspin, hkeeps⟩ := h.flush_busy hdrained
      exact ⟨t, ht, hkeeps, .inl (.inr hspin)⟩
  · obtain ⟨t, ht, hpoll, hkeeps⟩ := h.flush_spin
    exact ⟨t, ht, hkeeps, .inl (.inl hpoll)⟩

theorem Undisturbed.flushing (h : Undisturbed s t) (hflush : Flushing s) : Flushing t :=
  hflush.imp h.atStep h.atStep

/-! ### What a returned FLUSH leaves -/

/-- A run of FLUSH, with `bytes` on the transmit path. -/
inductive FlushRun (bytes : List Byte) (s : State) : Prop where
  | presented (hp : s.presents .flush []) (hsent : s.regs.sent = bytes)
  | running (hport : s.port = none) (hflush : Flushing s) (hsent : s.regs.sent = bytes)
  | returned (hext : s.ext = none) (hport : s.port = none) (hreturned : FlushReturned s)
      (hdrained : s.regs.temt = true) (hsent : s.regs.sent = bytes)

/-- LINE can only help a drain, and only a poll that sees TEMT returns. -/
theorem flushRun_stable (bytes : List Byte) : Stable (FlushRun bytes) where
  ext h := by
    cases h with
    | presented hp => exact hp.1
    | running _ hflush => exact hflush.ext
    | returned hext => exact hext
  line h hline := by
    cases h with
    | presented hp hsent => exact .presented (hline.presents hp) (hline.sent.trans hsent)
    | running hport hflush hsent =>
      exact .running (hline.port.trans hport) (hline.flushing hflush) (hline.sent.trans hsent)
    | returned hext hport hreturned hdrained hsent =>
      exact .returned (hline.ext.trans hext) (hline.port.trans hport)
        ⟨hline.seq ▸ hreturned.idle, hline.result.trans hreturned.result⟩ (hline.temt hdrained)
        (hline.sent.trans hsent)
  seq := by
    intro s t h hstep
    cases h with
    | presented hp hsent =>
      obtain ⟨c, -, hbegin, hat⟩ := hp.next
      cases hbegin.symm.trans hstep
      exact .running rfl (.inl hat) hsent
    | running hport hflush hsent =>
      obtain ⟨u, hu, hkeeps, hend⟩ := hflush.next
      cases hu.symm.trans hstep
      have huext : t.ext = none := hkeeps.ext.trans hflush.ext
      have huport : t.port = none := hkeeps.port.trans hport
      have husent : t.regs.sent = bytes := (congrArg Regs.sent hkeeps.regs).trans hsent
      rcases hend with hflush | ⟨hdrained, hreturned⟩
      · exact .running huport hflush husent
      · exact .returned huext huport hreturned ((congrArg Regs.temt hkeeps.regs).trans hdrained) husent
    | returned hext hport hreturned hdrained hsent =>
      cases (seqStep_of_idle hreturned.idle hport).symm.trans hstep
      exact .returned hext hport hreturned hdrained hsent

/-- Settles O45: of the states a run of FLUSH goes through, only a returned one is IDLE with the command taken; there
the whole transmit path is WIRE. -/
theorem flushReturnsOnlyWhenDrained : Obligations.FlushReturnsOnlyWhenDrained := by
  intro s t ms hp hms hrun hidle hport
  cases (flushRun_stable s.regs.sent).after_run hms hrun (.presented hp rfl) with
  | presented hp =>
    obtain ⟨-, -, -, c, hpresented, -⟩ := hp
    cases hport.symm.trans hpresented
  | running _ hflush => obtain hat | hat := hflush <;> cases hidle.symm.trans hat.busy
  | returned _ _ hreturned hdrained hsent =>
    rw [Regs.temt_eq_decide, decide_eq_true_eq] at hdrained
    obtain ⟨hq, ht⟩ := hdrained
    refine ⟨hq, ht, ?_, hreturned.result⟩
    simpa [Regs.sent, hq, ht] using hsent

/-! ### How often FLUSH polls -/

/-- While the transmitter is busy every two moves of SEQ are a poll and a spin hint. -/
theorem AtStep.flush_spins (h : AtStep .flush .poll s) (hbusy : s.regs.temt = false) (f : Nat) :
    ∃ t, runMoves (List.replicate (2 * f) .seq) s = some t ∧ AtStep .flush .poll t ∧
      t.regs.clearErrors = s.regs.clearErrors := by
  induction f generalizing s with
  | zero => exact ⟨s, rfl, h, rfl⟩
  | succ f ih =>
    obtain ⟨u, hu, hspin, hukeeps⟩ := h.counted.flush_busy hbusy
    obtain ⟨v, hv, hpoll, hvkeeps⟩ := hspin.counted.flush_spin
    have hregs : v.regs.clearErrors = s.regs.clearErrors := hvkeeps.regs.trans hukeeps.regs
    obtain ⟨t, ht, hat, htregs⟩ := ih hpoll ((congrArg Regs.temt hregs).trans hbusy)
    refine ⟨t, ?_, hat, htregs.trans hregs⟩
    rw [Nat.mul_succ, List.replicate_succ, List.replicate_succ, runMoves_cons (mv := .seq) h.ext hu,
      runMoves_cons (mv := .seq) hspin.ext hv, ht]

/-- Settles O46: after F rounds of poll and spin hint FLUSH is back at its poll, and the next poll sees what `tx_done`
did. -/
theorem flushPollsOnceMoreThanBusyPolls : Obligations.FlushPollsOnceMoreThanBusyPolls := by
  intro s b f hext hbusy hpc hword hq ht
  have hat : AtStep .flush .poll s := ⟨hext, hbusy, hpc, hword⟩
  have hheld : s.regs.temt = false := by simp [Regs.temt_eq_decide, ht]
  obtain ⟨t, hrun, htat, htregs⟩ := hat.flush_spins hheld f
  refine ⟨⟨t, hrun, htat.busy, htat.pc⟩, ?_⟩
  have htq : t.regs.txq = [] := (congrArg Regs.txq htregs :).trans hq
  have htt : t.regs.tsr = some b := (congrArg Regs.tsr htregs :).trans ht
  have htw : t.regs.wire = s.regs.wire := (congrArg Regs.wire htregs :)
  rw [runMoves_append hrun, runMoves_txDone htat.ext htt]
  have hdone : AtStep .flush .poll
      { t with ticks := t.ticks + 1, regs := { t.regs with wire := t.regs.wire ++ [b], tsr := none } } :=
    htat.of_seq_eq rfl rfl
  obtain ⟨u, hu, hreturned, hkeeps⟩ := hdone.counted.flush_drained (by simp [Regs.temt_eq_decide, htq])
  refine ⟨u, runMoves_cons (mv := .seq) hdone.ext hu, hreturned.idle, hreturned.result, ?_⟩
  exact (congrArg Regs.wire hkeeps.regs :).trans (congrArg (· ++ [b]) htw)

/-! ### Moves of an infinite schedule -/

section Schedule

variable {sched : Nat → Move} {n : Nat} {u : State}

/-- The next state of a run in which SEQ and LINE move. -/
theorem trace_succ_cases (hall : ∀ n, isSeqOrLine (sched n) = true) (hext : u.ext = none)
    (hu : trace sched s n = some u) :
    (sched n = .seq ∧ ∀ v, seqStep { u with ticks := u.ticks + 1 } = .next v → trace sched s (n + 1) = some v) ∨
    (∃ m, sched n = .line m ∧ trace sched s (n + 1) = some (lineStep m { u with ticks := u.ticks + 1 })) := by
  have hmove := hall n
  cases hn : sched n <;> rw [hn] at hmove
  case seq => exact .inl ⟨rfl, fun v hv => by simp only [trace, hu, hn, step_schedule _ u hext, takeMove, hv]⟩
  case line m => exact .inr ⟨m, rfl, by simp only [trace, hu, hn, step_schedule _ u hext, takeMove]⟩
  all_goals cases hmove

/-- Where SEQ moves forever, what LINE does not disturb is left by a step of SEQ. -/
theorem exists_trace_of_seq {Q R : State → Prop} (hall : ∀ n, isSeqOrLine (sched n) = true)
    (hforever : SeqMovesForever sched) (hext : ∀ {u}, Q u → u.ext = none)
    (hline : ∀ {u v}, Q u → Undisturbed u v → Q v) (hseq : ∀ {u}, Q u → ∃ v, seqStep u = .next v ∧ R v)
    (hu : trace sched s n = some u) (hQ : Q u) : ∃ m v, trace sched s m = some v ∧ R v := by
  by_contra hnever
  have hnext {m : Nat} {u : State} (hu : trace sched s m = some u) (hQ : Q u) :
      sched m ≠ .seq ∧ ∃ v, trace sched s (m + 1) = some v ∧ Q v := by
    rcases trace_succ_cases hall (hext hQ) hu with ⟨-, hseqs⟩ | ⟨l, hl, hlines⟩
    · obtain ⟨v, hv, hR⟩ := hseq (hline hQ (undisturbed_ticks u (u.ticks + 1)))
      exact absurd ⟨m + 1, v, hseqs v hv, hR⟩ hnever
    · exact ⟨by rw [hl]; exact Move.noConfusion, _, hlines, hline hQ (undisturbed_move l u)⟩
  obtain ⟨k, hk, hmove⟩ := hforever n
  have hstays : ∃ v, trace sched s k = some v ∧ Q v :=
    Nat.le_induction ⟨u, hu, hQ⟩ (fun m _ ⟨v, hv, hQ⟩ => (hnext hv hQ).2) k hk
  obtain ⟨v, hv, hQ⟩ := hstays
  exact (hnext hv hQ).1 hmove

/-! ### FLUSH under `LINE_FAIR` -/

/-- The steps LINE has still to take until the transmitter is drained: `tx_load` and `tx_done` for each byte of TXQ, and
`tx_done` for the shift register's. -/
def Regs.txWork (r : Regs) : Nat := 2 * r.txq.length + r.tsr.toList.length

/-- No step of LINE adds to it. -/
theorem lineStep_txWork_le (m : LineStep) (s : State) : (lineStep m s).regs.txWork ≤ s.regs.txWork := by
  rcases lineStep_transmit_cases m s with ⟨-, ht, hq⟩ | ⟨b, -, hidle, ht, hq⟩ | ⟨b, -, hbusy, ht, hq⟩
  · simp [Regs.txWork, ht, hq]
  · simp [Regs.txWork, hidle, ht, hq]
  · simp [Regs.txWork, hbusy, ht, hq]

/-- A `tx_load` or `tx_done` that is taken does one of them. -/
theorem lineStep_txWork_lt {m : LineStep} {s : State} (h : txMoveTaken (.line m) s.regs = true) :
    (lineStep m s).regs.txWork < s.regs.txWork := by
  cases m with
  | txLoad =>
    simp only [txMoveTaken, lineEnabled, Bool.and_eq_true, Bool.not_eq_true', List.isEmpty_eq_false_iff,
      Option.isNone_iff_eq_none] at h
    rcases txLoad_cases s with ⟨b, rest, hq, ht, he⟩ | ⟨hno, -⟩
    · simp only [lineStep, he, Regs.txWork, hq, ht, Option.toList_some, Option.toList_none, List.length_cons,
        List.length_nil]
      omega
    · exact absurd h hno
  | txDone =>
    rcases txDone_cases s with ⟨b, ht, he⟩ | ⟨hidle, -⟩
    · simp [lineStep, he, Regs.txWork, ht]
    · simp [txMoveTaken, lineEnabled, hidle] at h
  | rxDeliver b => cases h
  | lineError pe fe bi b7 => cases h

/-- Once the transmitter is drained, a running FLUSH that goes on polling returns. -/
theorem Flushing.returns_of_drained (hall : ∀ n, isSeqOrLine (sched n) = true) (hforever : SeqMovesForever sched)
    (hu : trace sched s n = some u) (hflush : Flushing u) (hdrained : u.regs.temt = true) :
    ∃ m t, trace sched s m = some t ∧ FlushReturned t := by
  have hpoll {n : Nat} {u : State} (hu : trace sched s n = some u) (hat : AtStep .flush .poll u)
      (hdrained : u.regs.temt = true) : ∃ m t, trace sched s m = some t ∧ FlushReturned t := by
    refine exists_trace_of_seq (Q := fun u => AtStep .flush .poll u ∧ u.regs.temt = true) hall hforever
      (fun h => h.1.ext) (fun h hline => ⟨hline.atStep h.1, hline.temt h.2⟩) (fun h => ?_) hu ⟨hat, hdrained⟩
    obtain ⟨t, ht, hreturned, -⟩ := h.1.flush_drained h.2
    exact ⟨t, ht, hreturned⟩
  rcases hflush with hat | hat
  · exact hpoll hu hat hdrained
  · obtain ⟨m, v, hv, hvat, hvdrained⟩ := exists_trace_of_seq
      (Q := fun u => AtStep .flush .spin u ∧ u.regs.temt = true)
      (R := fun u => AtStep .flush .poll u ∧ u.regs.temt = true) hall hforever
      (fun h => h.1.ext) (fun h hline => ⟨hline.atStep h.1, hline.temt h.2⟩) (fun h => by
        obtain ⟨t, ht, htat, hkeeps⟩ := h.1.flush_spin
        exact ⟨t, ht, htat, (congrArg Regs.temt hkeeps.regs :).trans h.2⟩) hu ⟨hat, hdrained⟩
    exact hpoll hv hvat hvdrained

/-- Until it returns, FLUSH goes on running, and the work left to LINE falls with every step LINE takes of it. -/
theorem Flushing.trace_succ (hall : ∀ n, isSeqOrLine (sched n) = true)
    (hnever : ¬∃ m t, trace sched s m = some t ∧ FlushReturned t) (hu : trace sched s n = some u)
    (hflush : Flushing u) :
    ∃ v, trace sched s (n + 1) = some v ∧ Flushing v ∧ v.regs.txWork ≤ u.regs.txWork ∧
      (txMoveTaken (sched n) u.regs = true → v.regs.txWork < u.regs.txWork) := by
  rcases trace_succ_cases hall hflush.ext hu with ⟨hn, hseqs⟩ | ⟨m, hn, hlines⟩
  · obtain ⟨v, hv, hkeeps, hend⟩ := ((undisturbed_ticks u (u.ticks + 1)).flushing hflush).next
    rcases hend with hvflush | ⟨-, hreturned⟩
    · have hwork : v.regs.txWork = u.regs.txWork := (congrArg Regs.txWork hkeeps.regs :)
      exact ⟨v, hseqs v hv, hvflush, hwork.le, fun h => by rw [hn] at h; cases h⟩
    · exact absurd ⟨n + 1, v, hseqs v hv, hreturned⟩ hnever
  · exact ⟨_, hlines, (undisturbed_move m u).flushing hflush, lineStep_txWork_le m _,
      fun h => lineStep_txWork_lt (by rw [hn] at h; exact h)⟩

theorem Flushing.trace_of_le (hall : ∀ n, isSeqOrLine (sched n) = true)
    (hnever : ¬∃ m t, trace sched s m = some t ∧ FlushReturned t) (hu : trace sched s n = some u)
    (hflush : Flushing u) {k : Nat} (hk : n ≤ k) :
    ∃ v, trace sched s k = some v ∧ Flushing v ∧ v.regs.txWork ≤ u.regs.txWork := by
  induction k, hk using Nat.le_induction with
  | base => exact ⟨u, hu, hflush, le_rfl⟩
  | succ k _ ih =>
    obtain ⟨v, hv, hvflush, hvwork⟩ := ih
    obtain ⟨w, hw, hwflush, hwwork, -⟩ := hvflush.trace_succ hall hnever hv
    exact ⟨w, hw, hwflush, hwwork.trans hvwork⟩

/-- The work is finite: LINE cannot do some of it infinitely often. -/
theorem Flushing.not_endless (hall : ∀ n, isSeqOrLine (sched n) = true)
    (hnever : ¬∃ m t, trace sched s m = some t ∧ FlushReturned t)
    (htaken : ∀ after, ∃ n u, after ≤ n ∧ trace sched s n = some u ∧ txMoveTaken (sched n) u.regs = true)
    (hu : trace sched s n = some u) (hflush : Flushing u) : False := by
  induction hw : u.regs.txWork using Nat.strong_induction_on generalizing n u with
  | _ w ih =>
    obtain ⟨k, v, hk, hv, hmove⟩ := htaken n
    obtain ⟨v', hv', hvflush, hvwork⟩ := hflush.trace_of_le hall hnever hu hk
    cases hv.symm.trans hv'
    obtain ⟨x, hx, hxflush, -, hless⟩ := hvflush.trace_succ hall hnever hv
    exact ih _ ((hless hmove).trans_le (hvwork.trans_eq hw)) hx hxflush rfl

/-- The transmitter is busy exactly when TEMT is 0 (R14). -/
theorem Regs.txBusy_eq_not_temt (r : Regs) : r.txBusy = !r.temt := by
  cases hq : r.txq <;> cases ht : r.tsr <;> simp [Regs.txBusy, Regs.temt, hq, ht]

/-- A running FLUSH of a well-formed state is at one of its labels. -/
theorem Flushing.of_wf (hwf : s.wf = true) (hext : s.ext = none) (hbusy : s.seq.phase = .busy)
    (hword : decodeCommand s.seq.cmd = .ok .flush) : Flushing s := by
  obtain ⟨i, l, hin, hpc, hl, -⟩ := State.inCommand_of_wf_busy hwf hbusy
  cases hin.word.symm.trans hword
  have hat : AtStep .flush l s := ⟨hext, hbusy, hpc, hword⟩
  fin_cases hl
  · exact .inl hat
  · exact .inr hat

end Schedule

/-- Settles O48: a FLUSH that never returned would find the transmitter busy at every poll, so LINE would do some of the
finite work that is left infinitely often. -/
theorem flushReturnsUnderLineFair : Obligations.FlushReturnsUnderLineFair := by
  intro s sched hwf hext hbusy hword hall hforever hfair
  have hstart := Flushing.of_wf hwf hext hbusy hword
  have hreturns : ∃ n t, trace sched s n = some t ∧ FlushReturned t := by
    by_contra hnever
    refine hstart.not_endless hall hnever (hfair ⟨0, fun n _ => ?_⟩) (n := 0) rfl
    obtain ⟨u, hu, hflush, -⟩ := hstart.trace_of_le hall hnever (n := 0) rfl (Nat.zero_le n)
    refine ⟨u, hu, ?_⟩
    rw [Regs.txBusy_eq_not_temt]
    cases hdrained : u.regs.temt
    · rfl
    · exact absurd (hflush.returns_of_drained hall hforever hu hdrained) hnever
  obtain ⟨n, t, ht, hreturned⟩ := hreturns
  exact ⟨n, t, ht, hreturned.idle, hreturned.result⟩

end Sys2Proof.Machine
end

section
/-! How many steps a command still has to take (R90 c): each step of a micro-program goes on to a later label, or to a
later slot of READ's or WRITE's loop, or returns. -/

namespace Sys2Proof.Machine

variable {p : Params} {i : Instr} {s t : State} {l l' : Label} {len : Half}

/-! ### The ends of a step, in order -/

/-- A command has returned a result it may return (R45, R100). -/
structure Returned (i : Instr) (t : State) : Prop where
  idle : t.seq.phase = .idle
  port : t.port = none
  result : ∃ r, t.result = some r ∧
    (r.status = 0#2 ∨ r.status = 1#2 ∧ r.value = 0#32 ∧ (i = .rdnb ∨ (∃ b, i = .wrnb b) ∨ i = .flnb)) ∧
    (r.data ≠ [] → ∃ len, i = .read len)

/-- A step at `l` that goes on to a later label, in the order in which `Label` lists them, or returns. Every
micro-program without a loop takes its labels in that order. -/
def StepsOn (p : Params) (i : Instr) (l : Label) (t : State) : Prop :=
  (∃ l', InCommand p i t ∧ t.seq.pc = some l' ∧ l.ctorIdx < l'.ctorIdx) ∨ Returned i t

/-- `f` ends a step at `l` so, from wherever in the command it is applied. -/
def EndsLater (p : Params) (i : Instr) (l : Label) (f : State → State) : Prop :=
  ∀ u, InCommand p i u → StepsOn p i l (f u)

theorem EndsLater.of_le {f : State → State} (h : EndsLater p i l' f) (hl : l.ctorIdx ≤ l'.ctorIdx) :
    EndsLater p i l f := fun u hu =>
  (h u hu).imp_left fun ⟨l'', hin, hpc, hlt⟩ => ⟨l'', hin, hpc, hl.trans_lt hlt⟩

theorem InCommand.goto (h : InCommand p i s) (l : Label) : InCommand p i (s.goto l) := h.withSeq rfl rfl rfl

theorem endsLater_goto (h : l.ctorIdx < l'.ctorIdx) : EndsLater p i l (State.goto l') :=
  fun _ hu => .inl ⟨l', hu.goto l', rfl, h⟩

/-- Any command may return OK without data. -/
theorem InCommand.returned_ok (h : InCommand p i s) (v : Word) : Returned i (s.ret .ok v []) :=
  ⟨rfl, h.port, _, rfl, .inl rfl, fun hdata => absurd rfl hdata⟩

theorem endsLater_ret (v : State → Word) : EndsLater p i l fun u => u.ret .ok (v u) [] :=
  fun _ hu => .inr (hu.returned_ok _)

theorem endsLater_retOk : EndsLater p i l State.retOk := endsLater_ret fun _ => 0#32

theorem endsLater_retWouldBlock (hi : i = .rdnb ∨ (∃ b, i = .wrnb b) ∨ i = .flnb) :
    EndsLater p i l State.retWouldBlock :=
  fun _ hu => .inr ⟨rfl, hu.port, _, rfl, .inr ⟨rfl, rfl, hi⟩, fun hdata => absurd rfl hdata⟩

theorem EndsLater.ite {f g : State → State} (hf : EndsLater p i l f) (hg : EndsLater p i l g) (c : State → Bool) :
    EndsLater p i l fun u => if c u then f u else g u := by
  intro u hu
  show StepsOn p i l (if c u then f u else g u)
  split
  · exact hf u hu
  · exact hg u hu

/-! ### The micro-programs without a loop -/

theorem InCommand.readIntoS_stepsOn (h : InCommand p i s) (hl : l.ctorIdx < l'.ctorIdx) :
    StepsOn p i l (readIntoS l' s) :=
  .inl ⟨l', (h.read offLcr).withSeq rfl rfl rfl, rfl, hl⟩

theorem setdivSteps_stepsOn {d : Half} {after : State → State} (h : InCommand p i s)
    (hafter : EndsLater p i .lcrRestore after) (hstep : setdivSteps d after l s = some t) : StepsOn p i l t := by
  cases l <;> cases hstep
  case lcrSave => exact h.readIntoS_stepsOn (by decide)
  case latchOpen => exact endsLater_goto (by decide) _ (h.write _ _)
  case divLow => exact endsLater_goto (by decide) _ (h.write _ _)
  case divHigh => exact endsLater_goto (by decide) _ (h.write _ _)
  case lcrRestore => exact hafter _ (h.write _ _)

theorem getdivSteps_stepsOn {after : State → State} (h : InCommand p i s)
    (hafter : EndsLater p i .lcrRestore after) (hstep : getdivSteps after l s = some t) : StepsOn p i l t := by
  cases l
  case lcrSave =>
    cases hstep
    exact h.readIntoS_stepsOn (by decide)
  case latchOpen =>
    cases hstep
    exact endsLater_goto (by decide) _ (h.write _ _)
  case divLow =>
    cases hstep
    exact .inl ⟨.divHigh, (h.read offA).withSeq rfl rfl rfl, rfl, by decide⟩
  case divHigh =>
    cases hstep
    have hread : InCommand p i { busRead offB s with seq := { (busRead offB s).seq with hi := (busRead offB s).rd } } :=
      (h.read offB).withSeq rfl rfl rfl
    split
    · exact endsLater_goto (by decide) _ hread
    · exact hafter.of_le (by decide) _ hread
  case lcrRestore =>
    simp only [getdivSteps, Option.ite_none_right_eq_some, Option.some.injEq] at hstep
    obtain ⟨-, rfl⟩ := hstep
    exact hafter _ (h.write _ _)
  all_goals cases hstep

theorem setparSteps_stepsOn {par : BitVec 3} {after : State → State} (h : InCommand p i s)
    (hafter : EndsLater p i .parWrite after) (hstep : setparSteps par after l s = some t) : StepsOn p i l t := by
  cases l
  case parRead =>
    cases hstep
    exact h.readIntoS_stepsOn (by decide)
  case parWrite =>
    cases hv : setPar s.seq.s par <;> simp only [setparSteps, hv] at hstep <;> cases hstep
    exact hafter _ (h.write _ _)
  all_goals cases hstep

theorem setstopSteps_stepsOn {k : BitVec 1} {after : State → State} (h : InCommand p i s)
    (hafter : EndsLater p i .stopWrite after) (hstep : setstopSteps k after l s = some t) : StepsOn p i l t := by
  cases l <;> cases hstep
  case stopRead => exact h.readIntoS_stepsOn (by decide)
  case stopWrite => exact hafter _ (h.write _ _)

theorem setwlenSteps_stepsOn {n : BitVec 2} {after : State → State} (h : InCommand p i s)
    (hafter : EndsLater p i .wlenWrite after) (hstep : setwlenSteps n after l s = some t) : StepsOn p i l t := by
  cases l <;> cases hstep
  case wlenRead => exact h.readIntoS_stepsOn (by decide)
  case wlenWrite => exact hafter _ (h.write _ _)

theorem initSteps_stepsOn {hasdiv : BitVec 1} {par : BitVec 3} {k : BitVec 1} {n : BitVec 2} {d : Half}
    (h : InCommand p i s) (hstep : initSteps hasdiv par k n d l s = some t) : StepsOn p i l t := by
  cases l
  case parRead | parWrite =>
    simp only [initSteps] at hstep
    exact setparSteps_stepsOn h (endsLater_goto (by decide)) hstep
  case stopRead | stopWrite =>
    simp only [initSteps] at hstep
    exact setstopSteps_stepsOn h (endsLater_goto (by decide)) hstep
  case wlenRead | wlenWrite =>
    simp only [initSteps] at hstep
    exact setwlenSteps_stepsOn h endsLater_retOk hstep
  case rawAccess | start | poll | data | spin => cases hstep
  all_goals
    simp only [initSteps, Option.ite_none_right_eq_some] at hstep
    exact setdivSteps_stepsOn h (endsLater_goto (by decide)) hstep.2

theorem getcfgSteps_stepsOn (h : InCommand p i s) (hstep : getcfgSteps l s = some t) : StepsOn p i l t := by
  have hread : InCommand p i (readIntoT offLcr s) := h.readT offLcr
  cases l
  case lcrSave | latchOpen | divLow | divHigh | lcrRestore =>
    exact getdivSteps_stepsOn (after := State.goto .parRead) h (endsLater_goto (by decide)) hstep
  case parRead =>
    cases hstep
    exact .inl ⟨.stopRead, hread.withSeq rfl rfl rfl, rfl, by decide⟩
  case stopRead =>
    cases hstep
    exact .inl ⟨.wlenRead, hread.withSeq rfl rfl rfl, rfl, by decide⟩
  case wlenRead =>
    cases hstep
    exact .inr (hread.returned_ok _)
  all_goals cases hstep

/-- A poll, and what follows it by a test of the value just read. -/
theorem InCommand.poll_stepsOn (h : InCommand p i s) {f g : State → State} (hf : EndsLater p i l f)
    (hg : EndsLater p i l g) (seen : Byte → Bool) :
    StepsOn p i l (if seen (poll s).seq.t then f (poll s) else g (poll s)) :=
  hf.ite hg (fun u => seen u.seq.t) _ (h.readT offLsr)

/-- The slots of READ's and WRITE's loop; no other command counts slots. -/
def loopLength : Instr → Option Half
  | .read len | .write len => some len
  | _ => none

theorem eq_of_loopLength (h : loopLength i = some len) : i = .read len ∨ i = .write len := by
  cases i <;> simp_all [loopLength]

theorem microSteps_stepsOn (hloop : loopLength i = none) (hflush : i ≠ .flush) (h : InCommand p i s)
    (hstep : microSteps i l s = some t) : StepsOn p i l t := by
  cases i
  case getdiv => exact getdivSteps_stepsOn h (endsLater_ret fun u => (divOf u.seq.hi u.seq.lo).setWidth 32) hstep
  case setdiv => exact setdivSteps_stepsOn h endsLater_retOk hstep
  case setpar => exact setparSteps_stepsOn h endsLater_retOk hstep
  case setstop => exact setstopSteps_stepsOn h endsLater_retOk hstep
  case setwlen => exact setwlenSteps_stepsOn h endsLater_retOk hstep
  case init => exact initSteps_stepsOn h hstep
  case getcfg => exact getcfgSteps_stepsOn h hstep
  case rdnb =>
    cases l <;> cases hstep
    case poll =>
      exact h.poll_stepsOn (endsLater_goto (by decide)) (endsLater_retWouldBlock (.inl rfl)) polledDr
    case data => exact .inr ((h.read offA).returned_ok _)
  case wrnb b =>
    cases l <;> cases hstep
    case poll =>
      exact h.poll_stepsOn (endsLater_goto (by decide)) (endsLater_retWouldBlock (.inr (.inl ⟨b, rfl⟩))) polledThre
    case data => exact .inr ((h.write offA b).returned_ok _)
  case flnb =>
    cases l <;> cases hstep
    exact h.poll_stepsOn endsLater_retOk (endsLater_retWouldBlock (.inr (.inr rfl))) polledTemt
  case getpar | getstop | getwlen | rdrdy | wrrdy | regrd =>
    cases l <;> cases hstep
    exact .inr ((h.readT _).returned_ok _)
  case regwr =>
    cases l <;> cases hstep
    exact .inr ((h.write _ _).returned_ok _)
  case read | write => cases hloop
  case flush => exact absurd rfl hflush
  all_goals cases hstep

/-! ### The loops of READ and WRITE -/

/-- The most steps that can follow one of READ's or WRITE's at `l`, with `n` slots done: two for each later slot, and
one between a poll and its data access. -/
def slotSteps (len : Half) (l : Label) (n : Half) : Nat :=
  match l with
  | .start => 2 * len.toNat
  | .poll => 2 * (len.toNat - n.toNat) - 1
  | _ => 2 * (len.toNat - n.toNat) - 2

theorem slotSteps_start_lt {n : Half} (h : 0#16 < len) : slotSteps len .poll 0#16 < slotSteps len .start n := by
  simp only [slotSteps]
  bv_omega

theorem slotSteps_poll_lt {n : Half} (h : n < len) : slotSteps len .data n < slotSteps len .poll n := by
  simp only [slotSteps]
  bv_omega

theorem slotSteps_data_lt {n : Half} (hn : n < len) (h : n + 1#16 < len) :
    slotSteps len .poll (n + 1#16) < slotSteps len .data n := by
  simp only [slotSteps, toNat_slot_succ hn]
  rw [BitVec.lt_def, toNat_slot_succ hn] at h
  omega

/-- A step of a transfer at `l` that leaves fewer steps to follow, or returns. -/
def SlotStepsOn (p : Params) (i : Instr) (len : Half) (l : Label) (s t : State) : Prop :=
  (∃ l', InCommand p i t ∧ t.seq.pc = some l' ∧ slotSteps len l' t.seq.i < slotSteps len l s.seq.i) ∨
    Returned i t

theorem InCommand.readReturn_returned (h : InCommand p (.read len) s) : Returned (.read len) (readReturn s) :=
  ⟨rfl, h.port, _, rfl, .inl rfl, fun _ => ⟨len, rfl⟩⟩

/-- READ's loop test. -/
theorem readLoop_slotStepsOn {u : State} (h : InCommand p (.read len) u)
    (hless : u.seq.i < len → slotSteps len .poll u.seq.i < slotSteps len l s.seq.i) :
    SlotStepsOn p (.read len) len l s (readLoop len u) := by
  by_cases hlt : u.seq.i < len
  · rw [readLoop_of_lt hlt]
    exact .inl ⟨.poll, h.goto .poll, rfl, hless hlt⟩
  · rw [readLoop_of_not_lt hlt]
    exact .inr h.readReturn_returned

theorem readSteps_slotStepsOn (h : InCommand p (.read len) s) (hslots : slotsCounted (.read len) l s.seq = true)
    (hstep : readSteps len l s = some t) : SlotStepsOn p (.read len) len l s t := by
  cases l <;> cases hstep
  case start => exact readLoop_slotStepsOn (h.withSeq rfl rfl rfl) fun hlt => slotSteps_start_lt hlt
  case poll =>
    obtain ⟨hlt, -⟩ := (slotsCounted_read_iff (by decide)).mp hslots
    have hpoll : InCommand p (.read len) (poll s) := h.readT offLsr
    split
    · exact .inl ⟨.data, hpoll.goto .data, rfl, by simpa using slotSteps_poll_lt hlt⟩
    · exact .inr hpoll.readReturn_returned
  case data =>
    obtain ⟨hlt, -⟩ := (slotsCounted_read_iff (by decide)).mp hslots
    refine readLoop_slotStepsOn ((h.read offA).withSeq rfl rfl rfl) fun hmore => ?_
    simp only [busRead_seq] at hmore ⊢
    exact slotSteps_data_lt hlt hmore

/-- WRITE's loop test. -/
theorem writeLoop_slotStepsOn {u : State} (h : InCommand p (.write len) u)
    (hless : u.seq.i < len → slotSteps len .poll u.seq.i < slotSteps len l s.seq.i) :
    SlotStepsOn p (.write len) len l s (writeLoop len u) := by
  by_cases hlt : u.seq.i < len
  · rw [writeLoop_of_lt hlt]
    exact .inl ⟨.poll, h.goto .poll, rfl, hless hlt⟩
  · rw [writeLoop_of_not_lt hlt]
    exact .inr (h.returned_ok _)

theorem writeSteps_slotStepsOn (h : InCommand p (.write len) s) (hslots : slotsCounted (.write len) l s.seq = true)
    (hstep : writeSteps len l s = some t) : SlotStepsOn p (.write len) len l s t := by
  cases l
  case start =>
    cases hstep
    exact writeLoop_slotStepsOn (h.withSeq rfl rfl rfl) fun hlt => slotSteps_start_lt hlt
  case poll =>
    cases hstep
    obtain ⟨hlt, -⟩ := (slotsCounted_write_iff (by decide)).mp hslots
    have hpoll : InCommand p (.write len) (poll s) := h.readT offLsr
    split
    · exact .inl ⟨.data, hpoll.goto .data, rfl, by simpa using slotSteps_poll_lt hlt⟩
    · exact .inr (hpoll.returned_ok _)
  case data =>
    obtain ⟨hlt, -⟩ := (slotsCounted_write_iff (by decide)).mp hslots
    obtain ⟨b, hb⟩ := h.payload_slot hlt
    cases (writeSteps_data hb).symm.trans hstep
    refine writeLoop_slotStepsOn ((h.write offA b).withSeq ?_ ?_ ?_) fun hmore => slotSteps_data_lt hlt hmore
    all_goals simp
  all_goals cases hstep

/-! ### Every command but FLUSH -/

/-- The most steps of a command that can follow one at `l`: its later labels, or the slots left. -/
def stepsAfter (restore : Bool) (i : Instr) (l : Label) (q : Seq) : Nat :=
  match loopLength i with
  | some len => slotSteps len l q.i
  | none => ((labelsOf restore i).filter fun l' => l.ctorIdx < l'.ctorIdx).length

/-- A later label of the command has fewer after it. -/
theorem length_filter_labels_lt {ls : List Label} (hl' : l' ∈ ls) (h : l.ctorIdx < l'.ctorIdx) :
    (ls.filter fun x => l'.ctorIdx < x.ctorIdx).length < (ls.filter fun x => l.ctorIdx < x.ctorIdx).length := by
  have hsub : (ls.filter fun x => l'.ctorIdx < x.ctorIdx) =
      (ls.filter fun x => l.ctorIdx < x.ctorIdx).filter fun x => l'.ctorIdx < x.ctorIdx := by
    rw [List.filter_filter]
    refine List.filter_congr fun x _ => ?_
    have : l'.ctorIdx < x.ctorIdx → l.ctorIdx < x.ctorIdx := h.trans
    simpa using this
  rw [hsub]
  exact List.length_filter_lt_length_iff_exists.mpr ⟨l', List.mem_filter.mpr ⟨hl', by simpa using h⟩, by simp⟩

/-- A step of a command but FLUSH leaves fewer steps to follow, or returns. -/
theorem AtStep.stepsAfter_lt (hat : AtStep i l s) (hflush : i ≠ .flush) (hs : Sound s) (hstep : seqStep s = .next t)
    (ht : Sound t) :
    (∃ l', AtStep i l' t ∧
      stepsAfter t.params.getdivRestore i l' t.seq < stepsAfter s.params.getdivRestore i l s.seq) ∨ Returned i t := by
  obtain ⟨hin, -, hslots⟩ := hs.inCommand hat
  have hmicro := hat.microSteps_of_next hstep
  have hgoes {l' : Label} (hin : InCommand s.params i t) (hpc : t.seq.pc = some l') : AtStep i l' t :=
    ⟨ht.facts.ext, hin.busy, hpc, hin.word⟩
  cases hloop : loopLength i with
  | some len =>
    have hslot : SlotStepsOn s.params i len l s t := by
      rcases eq_of_loopLength hloop with rfl | rfl
      · exact readSteps_slotStepsOn hin hslots hmicro
      · exact writeSteps_slotStepsOn hin hslots hmicro
    refine hslot.imp_left fun ⟨l', hin', hpc, hlt⟩ => ⟨l', hgoes hin' hpc, ?_⟩
    simpa only [stepsAfter, hloop] using hlt
  | none =>
    refine (microSteps_stepsOn hloop hflush hin hmicro).imp_left fun ⟨l', hin', hpc, hlt⟩ =>
      ⟨l', hgoes hin' hpc, ?_⟩
    obtain ⟨-, hl', -⟩ := ht.inCommand (hgoes hin' hpc)
    simp only [stepsAfter, hloop, hin'.params] at hl' ⊢
    exact length_filter_labels_lt hl' hlt

theorem firstLabel_mem_labelsOf (hcommand : i.isCommand = true) (restore : Bool) :
    firstLabel i ∈ labelsOf restore i := by
  cases i
  case init hasdiv par k n d => by_cases hdiv : hasdiv = 1#1 <;> simp [firstLabel, labelsOf, hdiv]
  case rbrRd | thrWr | dllRd | dllWr | ierRd | ierWr | dlmRd | dlmWr | lcrRd | lcrWr | lsrRd | lsrWr => cases hcommand
  all_goals simp [firstLabel, labelsOf]

/-- After its acceptance a command has fewer steps to take than its bound. -/
theorem stepsAfter_firstLabel_lt (hcommand : i.isCommand = true) (restore : Bool) (q : Seq) :
    stepsAfter restore i (firstLabel i) q < seqStepBound restore i - 1 := by
  cases hloop : loopLength i with
  | some len =>
    have hbound : seqStepBound restore i = 2 + 2 * len.toNat ∧ firstLabel i = .start := by
      rcases eq_of_loopLength hloop with rfl | rfl <;> exact ⟨rfl, rfl⟩
    simp only [stepsAfter, hloop, hbound, slotSteps]
    omega
  | none =>
    have hbound : seqStepBound restore i = 1 + (labelsOf restore i).length := by
      cases i
      case read | write => cases hloop
      all_goals rfl
    simp only [stepsAfter, hloop, hbound, Nat.add_sub_cancel_left]
    exact List.length_filter_lt_length_iff_exists.mpr ⟨_, firstLabel_mem_labelsOf hcommand restore, by simp⟩

/-! ### Runs of a command -/

/-- A run of `i` from its presentation, that returns within `n` moves of SEQ. -/
inductive ReturnsWithin (i : Instr) (n : Nat) (s : State) : Prop where
  | presented {payload : List Byte} (hp : s.presents i payload)
      (hn : seqStepBound s.params.getdivRestore i ≤ n)
  | running {l : Label} (hat : AtStep i l s) (hn : stepsAfter s.params.getdivRestore i l s.seq < n)
  | returned (hreturned : Returned i s)

theorem ReturnsWithin.line {n : Nat} (h : ReturnsWithin i n s) (hline : Undisturbed s t) : ReturnsWithin i n t := by
  cases h with
  | presented hp hn => exact .presented (hline.presents hp) (hline.params ▸ hn)
  | running hat hn => exact .running (hline.atStep hat) (hline.params ▸ hline.seq ▸ hn)
  | returned hreturned =>
    obtain ⟨r, hr, hgood⟩ := hreturned.result
    exact .returned ⟨hline.seq ▸ hreturned.idle, hline.port.trans hreturned.port, r, hline.result.trans hr, hgood⟩

theorem ReturnsWithin.seq {n : Nat} (hflush : i ≠ .flush) (hs : Sound s) (h : ReturnsWithin i n s)
    (hstep : seqStep s = .next t) (ht : Sound t) : ReturnsWithin i (n - 1) t := by
  cases h with
  | presented hp hn =>
    obtain ⟨c, -, hbegin, hat⟩ := hp.next
    cases hbegin.symm.trans hstep
    have hless := stepsAfter_firstLabel_lt (decodeCommand_ok hat.word).1 s.params.getdivRestore
      (s.begin c (firstLabel i)).seq
    exact .running hat (hless.trans_le (Nat.sub_le_sub_right hn 1))
  | running hat hn =>
    rcases hat.stepsAfter_lt hflush hs hstep ht with ⟨l', hat', hlt⟩ | hreturned
    · exact .running hat' (by omega)
    · exact .returned hreturned
  | returned hreturned =>
    cases (seqStep_of_idle hreturned.idle hreturned.port).symm.trans hstep
    exact .returned hreturned

/-- Every command but FLUSH returns, whatever LINE does, once SEQ has moved as often as its bound says (R90 c). -/
theorem State.presents.returns {payload : List Byte} {ms : List Move} (hp : s.presents i payload) (hwf : s.wf = true)
    (hflush : i ≠ .flush) (hms : seqAndLine ms = true)
    (hcount : seqStepBound s.params.getdivRestore i ≤ ms.count .seq) :
    ∃ t, runMoves ms s = some t ∧ Sound t ∧ Returned i t := by
  have hs := hp.sound hwf
  obtain ⟨t, hrun, ht, hend⟩ := exists_runMoves_of_countdown (P := ReturnsWithin i) ReturnsWithin.line
    (ReturnsWithin.seq hflush) hs (.presented hp le_rfl) hms hcount
  refine ⟨t, hrun, ht, ?_⟩
  cases hend with
  | presented hp' hn =>
    obtain ⟨_, -, -, hat⟩ := hp'.next
    have hless := stepsAfter_firstLabel_lt (decodeCommand_ok hat.word).1 t.params.getdivRestore t.seq
    omega
  | running hat hn => cases hn
  | returned hreturned => exact hreturned

/-- Settles O50: each step of a command but FLUSH leaves fewer steps to follow, and what it returns in the end is a
result the command may return, with as many data bytes as its value says because the state is well-formed (R45). -/
theorem everyCommandButFlushReturns : Obligations.EveryCommandButFlushReturns := by
  intro s i payload ms hwf hp hflush hms hcount
  obtain ⟨t, hrun, ht, hreturned⟩ := hp.returns hwf hflush hms hcount
  obtain ⟨r, hr, hstatus, hdata⟩ := hreturned.result
  refine ⟨t, r, hrun, hreturned.idle, hr, hstatus, fun hne => ?_⟩
  obtain ⟨len, hi⟩ := hdata hne
  obtain ⟨-, -, -, hresult⟩ := State.wf_iff.mp ht.wf
  simp only [State.resultWf, hr, Bool.and_eq_true, Bool.or_eq_true, List.isEmpty_iff, hne, beq_iff_eq,
    false_or] at hresult
  exact ⟨len, hi, hresult.2⟩

end Sys2Proof.Machine
end

section
/-! READ (R82) over runs: the bytes it returns are those its data accesses take off RXQ. -/

namespace Sys2Proof.Machine

variable {s₀ s t : State} {len : Half} {l : Label} {out bs : List Byte}

/-! ### Where READ is -/

/-- What READ leaves of REGS: all but RXQ and the error flags. -/
def Regs.offReceive (r : Regs) : Regs := { r.clearErrors with rxq := [] }

/-- READ is at `l` of a slot with the bytes `out` received, in REGS that READ has left as `s₀` had them. -/
structure ReadAt (s₀ : State) (len : Half) (l : Label) (out : List Byte) (s : State) : Prop where
  at_step : AtStep (.read len) l s
  dlab : s.dlab = false
  index : s.seq.i.toNat = out.length
  count : s.seq.cnt = s.seq.i
  more : out.length < len.toNat
  out : s.seq.out = out
  kept : s.regs.offReceive = s₀.regs.offReceive

/-- READ has returned `out`. -/
structure ReadReturned (s₀ : State) (out : List Byte) (t : State) : Prop where
  idle : t.seq.phase = .idle
  result : t.result = some { status := 0#2, value := BitVec.ofNat 32 out.length, data := out }
  kept : t.regs.offReceive = s₀.regs.offReceive

/-- READ has received `out`: it polls for the next slot while there is one, else it has returned (R82's loop test). -/
inductive ReadSlots (s₀ : State) (len : Half) (out : List Byte) (s : State) : Prop where
  | more (h : ReadAt s₀ len .poll out s)
  | done (hlen : out.length = len.toNat) (h : ReadReturned s₀ out s)

theorem ReadAt.of_seq_eq (h : ReadAt s₀ len l out s) (hext : t.ext = s.ext) (hseq : t.seq = s.seq)
    (hlcr : t.regs.lcr = s.regs.lcr) (hkept : t.regs.offReceive = s.regs.offReceive) : ReadAt s₀ len l out t where
  at_step := h.at_step.of_seq_eq hext hseq
  dlab := (congrArg dlabOf hlcr).trans h.dlab
  index := hseq ▸ h.index
  count := hseq ▸ h.count
  more := h.more
  out := hseq ▸ h.out
  kept := hkept.trans h.kept

theorem ReadAt.counted (h : ReadAt s₀ len l out s) : ReadAt s₀ len l out { s with ticks := s.ticks + 1 } :=
  h.of_seq_eq rfl rfl rfl rfl

/-! ### Its steps -/

theorem offReceive_of_clearErrors (h : t.regs.clearErrors = s.regs.clearErrors) :
    t.regs.offReceive = s.regs.offReceive :=
  congrArg (fun r : Regs => { r with rxq := [] }) h

/-- A poll that sees DR. -/
theorem ReadAt.poll_received (h : ReadAt s₀ len .poll out s) (hq : s.regs.rxq ≠ []) :
    ∃ t, seqStep s = .next t ∧ ReadAt s₀ len .data out t ∧ t.regs.rxq = s.regs.rxq ∧ t.params = s.params := by
  have hregs := lsrRead_clearErrors s
  exact ⟨_, h.at_step.next (readSteps_poll_received len hq),
    { h with
      at_step := { h.at_step with pc := rfl }
      dlab := (congrArg (fun r : Regs => dlabOf r.lcr) hregs :).trans h.dlab
      kept := (offReceive_of_clearErrors hregs).trans h.kept },
    (congrArg Regs.rxq hregs :), rfl⟩

/-- A poll that does not. -/
theorem ReadAt.poll_empty (h : ReadAt s₀ len .poll out s) (hq : s.regs.rxq = []) :
    ∃ t, seqStep s = .next t ∧ ReadReturned s₀ out t ∧ t.regs.rxq = [] := by
  have hregs := lsrRead_clearErrors s
  refine ⟨_, h.at_step.next (readSteps_poll_empty len hq),
    ⟨rfl, ?_, (offReceive_of_clearErrors hregs).trans h.kept⟩, (congrArg Regs.rxq hregs :).trans hq⟩
  simp only [h.count, h.out, ← h.index, BitVec.ofNat_toNat]

/-- READ's loop test changes SEQ and the result only. -/
theorem readLoop_regs (len : Half) (u : State) : (readLoop len u).regs = u.regs := by
  unfold readLoop
  split <;> rfl
theorem readLoop_params (len : Half) (u : State) : (readLoop len u).params = u.params := by
  unfold readLoop
  split <;> rfl

/-- The loop test, with the bytes so far received. -/
theorem readSlots_of_readLoop {u : State} (hext : u.ext = none) (hbusy : u.seq.phase = .busy)
    (hword : decodeCommand u.seq.cmd = .ok (.read len)) (hdlab : u.dlab = false)
    (hindex : u.seq.i.toNat = out.length) (hcount : u.seq.cnt = u.seq.i) (hle : out.length ≤ len.toNat)
    (hout : u.seq.out = out) (hkept : u.regs.offReceive = s₀.regs.offReceive) :
    ReadSlots s₀ len out (readLoop len u) := by
  by_cases hlt : u.seq.i < len
  · rw [readLoop_of_lt hlt]
    exact .more ⟨⟨hext, hbusy, rfl, hword⟩, hdlab, hindex, hcount, hindex ▸ hlt, hout, hkept⟩
  · rw [readLoop_of_not_lt hlt]
    refine .done ?_ ⟨rfl, ?_, hkept⟩
    · rw [BitVec.lt_def, hindex] at hlt
      omega
    · simp only [readReturn, State.ret_result, Status.code_ok, hcount, hout, ← hindex, BitVec.ofNat_toNat]

/-- A data access takes the head of RXQ. -/
theorem ReadAt.data (h : ReadAt s₀ len .data out s) {b : Byte} {rest : List Byte} (hq : s.regs.rxq = b :: rest) :
    ∃ t, seqStep s = .next t ∧ ReadSlots s₀ len (out ++ [b]) t ∧ t.regs.rxq = rest ∧ t.params = s.params := by
  have hread : busRead offA s = { s with rd := b, regs := { s.regs with rxq := rest } } := by
    rw [busRead_offA, h.dlab, if_neg (by decide), rbrRead_of_cons hq]
  have hlen : (out ++ [b]).length = out.length + 1 := List.length_append
  have hlt : s.seq.i < len := by
    rw [BitVec.lt_def, h.index]
    exact h.more
  refine ⟨_, h.at_step.next readSteps_data, ?_, ?_, ?_⟩
  · rw [hread]
    exact readSlots_of_readLoop h.at_step.ext h.at_step.busy h.at_step.word h.dlab
      ((toNat_slot_succ hlt).trans ((congrArg (· + 1) h.index).trans hlen.symm)) (congrArg (· + 1#16) h.count)
      (hlen.trans_le h.more) (congrArg (· ++ [b]) h.out) h.kept
  · rw [readLoop_regs, hread]
  · rw [readLoop_params, busRead_params]

/-! ### Runs -/

/-- The acceptance and the start (R82, R99). -/
theorem State.presents.read_start {ms : List Move} (hp : s.presents (.read len) []) (hdlab : s.dlab = false) :
    ∃ t, runMoves (.seq :: .seq :: ms) s = runMoves ms t ∧ ReadSlots s len [] t ∧ t.regs = s.regs ∧
      t.params = s.params := by
  have hp' := (undisturbed_ticks s (s.ticks + 1)).presents hp
  obtain ⟨c, -, hbegin, hat⟩ := hp'.next
  have hstart := hat.counted.next (t := _) rfl
  refine ⟨_, (runMoves_cons (mv := .seq) hp.1 hbegin).trans (runMoves_cons (mv := .seq) hat.ext hstart), ?_, ?_, ?_⟩
  · exact readSlots_of_readLoop hat.ext hat.busy hat.word hdlab rfl rfl (Nat.zero_le _) rfl rfl
  · exact readLoop_regs _ _
  · exact readLoop_params _ _

/-- One slot, as two moves of SEQ. -/
theorem ReadAt.run_slot {b : Byte} {rest : List Byte} (h : ReadAt s₀ len .poll out s)
    (hq : s.regs.rxq = b :: rest) (ms : List Move) :
    ∃ t, runMoves (.seq :: .seq :: ms) s = runMoves ms t ∧ ReadSlots s₀ len (out ++ [b]) t ∧ t.regs.rxq = rest ∧
      t.params = s.params := by
  obtain ⟨u, hu, huat, huq, huparams⟩ := h.counted.poll_received (List.ne_nil_of_mem (hq ▸ List.mem_cons_self))
  obtain ⟨t, ht, htslots, htq, htparams⟩ := huat.counted.data (huq.trans hq)
  exact ⟨t, (runMoves_cons (mv := .seq) h.at_step.ext hu).trans (runMoves_cons (mv := .seq) huat.at_step.ext ht),
    htslots, htq, htparams.trans huparams⟩

/-- The poll that ends READ, as one move of SEQ. -/
theorem ReadAt.run_empty (h : ReadAt s₀ len .poll out s) (hq : s.regs.rxq = []) :
    ∃ t, runMoves [.seq] s = some t ∧ ReadReturned s₀ out t ∧ t.regs.rxq = [] := by
  obtain ⟨t, ht, hreturned, htq⟩ := h.counted.poll_empty hq
  exact ⟨t, runMoves_cons (mv := .seq) h.at_step.ext ht, hreturned, htq⟩

/-- With LINE quiet, READ takes what RXQ holds, up to the slots left, and polls once more when that was too little. -/
theorem ReadSlots.run_quiet {n : Nat} (h : ReadSlots s₀ len out s)
    (hn : n = min (len.toNat - out.length) s.regs.rxq.length) :
    ∃ t, runMoves (List.replicate (2 * n + if n < len.toNat - out.length then 1 else 0) .seq) s = some t ∧
      ReadReturned s₀ (out ++ s.regs.rxq.take n) t ∧ t.regs.rxq = s.regs.rxq.drop n := by
  induction n generalizing s out with
  | zero =>
    cases h with
    | more h =>
      have hmore : 0 < len.toNat - out.length := Nat.sub_pos_of_lt h.more
      have hq : s.regs.rxq = [] := List.eq_nil_of_length_eq_zero (by omega)
      obtain ⟨t, ht, hreturned, htq⟩ := h.run_empty hq
      exact ⟨t, by rwa [if_pos hmore], by simpa using hreturned, htq.trans hq.symm⟩
    | done hlen h => exact ⟨s, by rw [if_neg (by omega)]; rfl, by simpa using h, rfl⟩
  | succ n ih =>
    cases h with
    | more h =>
      obtain ⟨b, rest, hq⟩ := List.exists_cons_of_length_pos (l := s.regs.rxq) (by omega)
      obtain ⟨u, hu, huslots, huq, -⟩ := h.run_slot hq
        (List.replicate (2 * n + if n + 1 < len.toNat - out.length then 1 else 0) .seq)
      have hlen : len.toNat - (out ++ [b]).length = len.toNat - out.length - 1 := by
        rw [List.length_append, List.length_singleton, Nat.sub_sub]
      obtain ⟨t, ht, hreturned, htq⟩ := ih huslots (by rw [hlen, huq]; rw [hq, List.length_cons] at hn; omega)
      rw [huq] at hreturned htq
      refine ⟨t, ?_, by simpa [hq] using hreturned, by simpa [hq] using htq⟩
      rw [Nat.mul_succ, Nat.add_right_comm, List.replicate_succ, List.replicate_succ, hu, ← ht, hlen]
      simp only [Nat.lt_sub_iff_add_lt]
    | done hlen h => omega

/-- Settles O41: READ fills a slot from each byte RXQ holds until one of the two runs out. -/
theorem readReturnsQueuedBytes : Obligations.ReadReturnsQueuedBytes := by
  intro s len n hp hdlab hn
  obtain ⟨u, hu, huslots, huregs, -⟩ := hp.read_start hdlab
    (ms := List.replicate (2 * n + if n < len.toNat then 1 else 0) .seq)
  obtain ⟨t, ht, hreturned, htq⟩ := huslots.run_quiet (n := n) (by rw [hn, huregs]; rfl)
  rw [huregs] at hreturned htq
  have hkept := hreturned.kept
  have hlen : (s.regs.rxq.take n).length = n := by
    rw [List.length_take]
    omega
  refine ⟨t, ?_, hreturned.idle, ?_, htq, (congrArg Regs.txq hkept :), (congrArg Regs.tsr hkept :),
    (congrArg Regs.wire hkept :), (congrArg Regs.lcr hkept :), (congrArg Regs.dl hkept :),
    (congrArg Regs.ier hkept :), (congrArg Regs.faults hkept :)⟩
  · rw [Nat.add_assoc, Nat.add_comm, List.replicate_succ, List.replicate_succ]
    exact hu.trans ht
  · have hresult := hreturned.result
    rwa [List.nil_append, hlen] at hresult

/-- With a byte delivered before each poll, READ fills a slot from each, and polls once more when a slot is left. -/
theorem ReadSlots.run_paced (h : ReadSlots s₀ len out s) (hdepth : 1 ≤ s.params.rxDepth) (hq : s.regs.rxq = [])
    (hle : out.length + bs.length ≤ len.toNat) :
    ∃ t, runMoves (bs.flatMap (fun b => [.line (.rxDeliver b), .seq, .seq]) ++
        if out.length + bs.length < len.toNat then [.seq] else []) s = some t ∧
      ReadReturned s₀ (out ++ bs) t ∧ t.regs.rxq = [] := by
  induction bs generalizing s out with
  | nil =>
    cases h with
    | more h =>
      obtain ⟨t, ht, hreturned, htq⟩ := h.run_empty hq
      exact ⟨t, by rwa [if_pos (by exact h.more)], by simpa using hreturned, htq⟩
    | done hlen h => exact ⟨s, by rw [if_neg (by exact hlen.not_lt)]; rfl, by simpa using h, hq⟩
  | cons b bs ih =>
    rw [List.length_cons] at hle ⊢
    cases h with
    | more h =>
      have hroom : s.regs.rxq.length < s.params.rxDepth := hq ▸ hdepth
      have hdelivered : ReadAt s₀ len .poll out
          { s with ticks := s.ticks + 1, regs := { s.regs with rxq := s.regs.rxq ++ [b] } } :=
        h.of_seq_eq rfl rfl rfl rfl
      have hqb : s.regs.rxq ++ [b] = [b] := congrArg (· ++ [b]) hq
      obtain ⟨u, hu, huslots, huq, huparams⟩ := hdelivered.run_slot hqb
        (bs.flatMap (fun b => [.line (.rxDeliver b), .seq, .seq]) ++
          if out.length + (bs.length + 1) < len.toNat then [.seq] else [])
      have hlen : (out ++ [b]).length + bs.length = out.length + (bs.length + 1) := by
        rw [List.length_append, List.length_singleton]
        omega
      obtain ⟨t, ht, hreturned, htq⟩ := ih huslots (huparams ▸ hdepth) huq (hlen ▸ hle)
      refine ⟨t, ?_, by simpa using hreturned, htq⟩
      rw [List.flatMap_cons, List.append_assoc]
      exact (runMoves_rxDeliver b h.at_step.ext hroom).trans (hu.trans (hlen ▸ ht))
    | done hlen h => omega

/-- Settles O42: from an empty RXQ each delivery is the byte of one slot. -/
theorem readCountsReadyPolls : Obligations.ReadCountsReadyPolls := by
  intro s len bs hwf hp hdlab hq hle
  obtain ⟨hparams, -⟩ := State.wf_iff.mp hwf
  obtain ⟨u, hu, huslots, huregs, huparams⟩ := hp.read_start hdlab
    (ms := bs.flatMap (fun b => [.line (.rxDeliver b), .seq, .seq]) ++
      if bs.length < len.toNat then [.seq] else [])
  obtain ⟨t, ht, hreturned, htq⟩ := huslots.run_paced (bs := bs) (huparams ▸ (paramsWf_depths hparams).1)
    (huregs ▸ hq) (by simpa using hle)
  rw [List.length_nil, Nat.zero_add] at ht
  exact ⟨t, hu.trans ht, hreturned.idle, hreturned.result, htq⟩

end Sys2Proof.Machine
end

section
/-! WRITE (R83) over runs: the payload bytes it counts are those its data accesses put on the transmit path. -/

namespace Sys2Proof.Machine

variable {s₀ s t : State} {len : Half} {payload : List Byte} {l : Label} {n : Nat}

/-! ### Where WRITE is -/

/-- What WRITE has done to REGS after `n` slots since `s₀`, with the latch window shut. -/
structure Wrote (s₀ : State) (payload : List Byte) (n : Nat) (s : State) : Prop where
  dlab : s.dlab = false
  sent : s.regs.sent = s₀.regs.sent ++ payload.take n
  faults : s.regs.faults = s₀.regs.faults
  dl : s.regs.dl = s₀.regs.dl

/-- WRITE is at `l` of slot `n`. -/
structure WriteAt (s₀ : State) (len : Half) (payload : List Byte) (l : Label) (n : Nat) (s : State) : Prop where
  at_step : AtStep (.write len) l s
  port : s.port = none
  carries : s.seq.payload = payload
  index : s.seq.i.toNat = n
  count : s.seq.cnt = s.seq.i
  more : n < len.toNat
  wrote : Wrote s₀ payload n s

/-- WRITE has returned `n`. -/
structure WriteReturned (s₀ : State) (len : Half) (payload : List Byte) (n : Nat) (t : State) : Prop where
  idle : t.seq.phase = .idle
  port : t.port = none
  le : n ≤ len.toNat
  result : t.result = some { status := 0#2, value := BitVec.ofNat 32 n, data := [] }
  wrote : Wrote s₀ payload n t

/-- WRITE has sent `n` bytes: it polls for the next slot while there is one, else it has returned (R83's loop test). -/
inductive WriteSlots (s₀ : State) (len : Half) (payload : List Byte) (n : Nat) (s : State) : Prop where
  | more (h : WriteAt s₀ len payload .poll n s)
  | done (hlen : n = len.toNat) (h : WriteReturned s₀ len payload n s)

theorem Undisturbed.wrote (hline : Undisturbed s t) (h : Wrote s₀ payload n s) : Wrote s₀ payload n t where
  dlab := (congrArg dlabOf hline.lcr).trans h.dlab
  sent := hline.sent.trans h.sent
  faults := hline.faults.trans h.faults
  dl := hline.dl.trans h.dl

theorem Undisturbed.writeAt (hline : Undisturbed s t) (h : WriteAt s₀ len payload l n s) :
    WriteAt s₀ len payload l n t where
  at_step := hline.atStep h.at_step
  port := hline.port.trans h.port
  carries := hline.seq ▸ h.carries
  index := hline.seq ▸ h.index
  count := hline.seq ▸ h.count
  more := h.more
  wrote := hline.wrote h.wrote

theorem Undisturbed.writeReturned (hline : Undisturbed s t) (h : WriteReturned s₀ len payload n s) :
    WriteReturned s₀ len payload n t where
  idle := hline.seq ▸ h.idle
  port := hline.port.trans h.port
  le := h.le
  result := hline.result.trans h.result
  wrote := hline.wrote h.wrote

theorem WriteAt.counted (h : WriteAt s₀ len payload l n s) :
    WriteAt s₀ len payload l n { s with ticks := s.ticks + 1 } :=
  (undisturbed_ticks s _).writeAt h

/-! ### Its steps -/

/-- A change outside REGS, or of the error flags only, is nothing WRITE did. -/
theorem Wrote.of_clearErrors (h : Wrote s₀ payload n s) (hregs : t.regs.clearErrors = s.regs.clearErrors) :
    Wrote s₀ payload n t where
  dlab := (congrArg (fun r : Regs => dlabOf r.lcr) hregs :).trans h.dlab
  sent := (congrArg Regs.sent hregs :).trans h.sent
  faults := (congrArg Regs.faults hregs :).trans h.faults
  dl := (congrArg Regs.dl hregs :).trans h.dl

/-- A poll that sees THRE. -/
theorem WriteAt.poll_empty (h : WriteAt s₀ len payload .poll n s) (hq : s.regs.txq = []) :
    ∃ t, seqStep s = .next t ∧ WriteAt s₀ len payload .data n t ∧ t.regs.txq = [] ∧ t.params = s.params := by
  have hregs := lsrRead_clearErrors s
  exact ⟨_, h.at_step.next (writeSteps_poll_empty len hq),
    { h with at_step := { h.at_step with pc := rfl }, wrote := h.wrote.of_clearErrors hregs },
    (congrArg Regs.txq hregs :).trans hq, rfl⟩

/-- A poll that does not. -/
theorem WriteAt.poll_held (h : WriteAt s₀ len payload .poll n s) (hq : s.regs.txq ≠ []) :
    ∃ t, seqStep s = .next t ∧ WriteReturned s₀ len payload n t := by
  refine ⟨_, h.at_step.next (writeSteps_poll_held len hq), rfl, h.port, h.more.le, ?_,
    h.wrote.of_clearErrors (lsrRead_clearErrors s)⟩
  simp only [h.count, ← h.index, BitVec.ofNat_toNat]

/-- WRITE's loop test changes SEQ and the result only. -/
theorem writeLoop_regs (len : Half) (u : State) : (writeLoop len u).regs = u.regs := by
  unfold writeLoop
  split <;> rfl
theorem writeLoop_params (len : Half) (u : State) : (writeLoop len u).params = u.params := by
  unfold writeLoop
  split <;> rfl

/-- The loop test, with `n` bytes sent. -/
theorem writeSlots_of_writeLoop {u : State} (hext : u.ext = none) (hport : u.port = none)
    (hbusy : u.seq.phase = .busy) (hword : decodeCommand u.seq.cmd = .ok (.write len))
    (hpayload : u.seq.payload = payload) (hindex : u.seq.i.toNat = n) (hcount : u.seq.cnt = u.seq.i)
    (hle : n ≤ len.toNat) (hwrote : Wrote s₀ payload n u) : WriteSlots s₀ len payload n (writeLoop len u) := by
  by_cases hlt : u.seq.i < len
  · rw [writeLoop_of_lt hlt]
    exact .more ⟨⟨hext, hbusy, rfl, hword⟩, hport, hpayload, hindex, hcount, hindex ▸ hlt,
      hwrote.of_clearErrors rfl⟩
  · rw [writeLoop_of_not_lt hlt]
    refine .done ?_ ⟨rfl, hport, hle, ?_, hwrote.of_clearErrors rfl⟩
    · rw [BitVec.lt_def, hindex] at hlt
      omega
    · simp only [writeReturn, State.ret_result, Status.code_ok, hcount, ← hindex, BitVec.ofNat_toNat]

/-- A data access with room in TXQ appends the slot's payload byte. -/
theorem WriteAt.data (h : WriteAt s₀ len payload .data n s) (hfits : payload.length = len.toNat)
    (hroom : s.regs.txq.length < s.params.txDepth) :
    ∃ t b, seqStep s = .next t ∧ WriteSlots s₀ len payload (n + 1) t ∧ t.regs.txq = s.regs.txq ++ [b] ∧
      t.params = s.params := by
  obtain ⟨b, hb⟩ : ∃ b, payload[n]? = some b := ⟨_, List.getElem?_eq_getElem (hfits ▸ h.more)⟩
  have hslot : s.seq.payload[s.seq.i.toNat]? = some b := by rw [h.carries, h.index, hb]
  have hwrite : busWrite offA b s = { s with regs := { s.regs with txq := s.regs.txq ++ [b] } } := by
    rw [busWrite_offA, h.wrote.dlab, if_neg (by decide), thrWrite_of_room b hroom]
  have hlt : s.seq.i < len := by
    rw [BitVec.lt_def, h.index]
    exact h.more
  have hsent : s.regs.sent ++ [b] = s₀.regs.sent ++ payload.take (n + 1) := by
    rw [h.wrote.sent, List.take_add_one, hb, List.append_assoc]
    rfl
  refine ⟨_, b, h.at_step.next (writeSteps_data hslot), ?_, ?_, ?_⟩
  · rw [hwrite]
    exact writeSlots_of_writeLoop h.at_step.ext h.port h.at_step.busy h.at_step.word h.carries
      ((toNat_slot_succ hlt).trans (congrArg (· + 1) h.index)) (congrArg (· + 1#16) h.count) h.more
      ⟨h.wrote.dlab, (List.append_assoc _ _ _).symm.trans hsent, h.wrote.faults, h.wrote.dl⟩
  · rw [writeLoop_regs, hwrite]
  · rw [writeLoop_params, busWrite_params]

/-- The start (R83, log 13). -/
theorem AtStep.write_start (hat : AtStep (.write len) .start s) (hport : s.port = none)
    (hpayload : s.seq.payload = payload) (hwrote : Wrote s₀ payload 0 s) :
    ∃ t, seqStep s = .next t ∧ WriteSlots s₀ len payload 0 t ∧ t.regs = s.regs ∧ t.params = s.params := by
  refine ⟨_, hat.next (t := _) rfl, ?_, writeLoop_regs _ _, writeLoop_params _ _⟩
  exact writeSlots_of_writeLoop hat.ext hport hat.busy hat.word hpayload rfl rfl (Nat.zero_le _)
    (hwrote.of_clearErrors rfl)

/-- Before the first slot nothing is written. -/
theorem Wrote.zero (hdlab : s.dlab = false) (payload : List Byte) : Wrote s payload 0 s :=
  ⟨hdlab, (List.append_nil _).symm, rfl, rfl⟩

theorem State.presents.length_payload (hp : s.presents (.write len) payload) : payload.length = len.toNat := by
  obtain ⟨-, -, hfits, -⟩ := hp
  simpa [payloadFits, Instr.payloadLength] using hfits

/-! ### WRITE under LINE's interference -/

/-- A run of WRITE since `s₀`. -/
inductive WriteRun (s₀ : State) (len : Half) (payload : List Byte) (s : State) : Prop where
  | presented (hp : s.presents (.write len) payload) (hwrote : Wrote s₀ payload 0 s)
  | started (hat : AtStep (.write len) .start s) (hport : s.port = none) (hpayload : s.seq.payload = payload)
      (hwrote : Wrote s₀ payload 0 s)
  | polling {n : Nat} (h : WriteAt s₀ len payload .poll n s)
  | writing {n : Nat} (h : WriteAt s₀ len payload .data n s)
  | returned {n : Nat} (h : WriteReturned s₀ len payload n s)

theorem WriteSlots.writeRun (h : WriteSlots s₀ len payload n s) : WriteRun s₀ len payload s := by
  cases h with
  | more h => exact .polling h
  | done _ h => exact .returned h

/-- What the poll saw still holds at the data access (R33), so TXQ has room. -/
theorem WriteAt.room (h : WriteAt s₀ len payload .data n s) (hs : Sound s) :
    s.regs.txq.length < s.params.txDepth := by
  have hthre : s.regs.thre = true :=
    State.pollHolds_iff.mp hs.facts.poll _ h.at_step.busy h.at_step.pc h.at_step.word
  rw [Regs.thre_eq_decide, decide_eq_true_eq] at hthre
  obtain ⟨hparams, -⟩ := State.wf_iff.mp hs.wf
  rw [hthre]
  exact (paramsWf_depths hparams).2

theorem writeRun_stable (hfits : payload.length = len.toNat) :
    Stable fun s => Sound s ∧ WriteRun s₀ len payload s where
  ext h := h.1.facts.ext
  line := by
    intro s t ⟨hs, h⟩ hline
    refine ⟨hs.line hline, ?_⟩
    cases h with
    | presented hp hwrote => exact .presented (hline.presents hp) (hline.wrote hwrote)
    | started hat hport hpayload hwrote =>
      exact .started (hline.atStep hat) (hline.port.trans hport) (hline.seq ▸ hpayload) (hline.wrote hwrote)
    | polling h => exact .polling (hline.writeAt h)
    | writing h => exact .writing (hline.writeAt h)
    | returned h => exact .returned (hline.writeReturned h)
  seq := by
    intro s t ⟨hs, h⟩ hstep
    have ends {u : State} (hu : seqStep s = .next u) (hrun : WriteRun s₀ len payload u) :
        Sound t ∧ WriteRun s₀ len payload t := by
      cases hu.symm.trans hstep
      exact ⟨stable_sound.seq hs hstep, hrun⟩
    cases h with
    | presented hp hwrote =>
      obtain ⟨c, hpayload, hbegin, hat⟩ := hp.next
      exact ends hbegin (.started hat rfl hpayload (hwrote.of_clearErrors rfl))
    | started hat hport hpayload hwrote =>
      obtain ⟨u, hu, hslots, -⟩ := hat.write_start hport hpayload hwrote
      exact ends hu hslots.writeRun
    | polling h =>
      by_cases hq : s.regs.txq = []
      · obtain ⟨u, hu, hat, -⟩ := h.poll_empty hq
        exact ends hu (.writing hat)
      · obtain ⟨u, hu, hreturned⟩ := h.poll_held hq
        exact ends hu (.returned hreturned)
    | writing h =>
      obtain ⟨u, -, hu, hslots, -⟩ := h.data hfits (h.room hs)
      exact ends hu hslots.writeRun
    | returned h => exact ends (seqStep_of_idle h.idle h.port) (.returned h)

/-- Settles O43: WRITE returns within its bound, and of the states its run goes through only a returned one is IDLE with
the command taken. -/
theorem writeSendsPayloadPrefix : Obligations.WriteSendsPayloadPrefix := by
  intro s len payload ms hwf hp hdlab hms hcount
  obtain ⟨t, hrun, -, hreturned⟩ := hp.returns hwf nofun hms hcount
  obtain ⟨-, hwrite⟩ := (writeRun_stable hp.length_payload).after_run hms hrun
    ⟨hp.sound hwf, .presented hp (.zero hdlab payload)⟩
  have hidle := hreturned.idle
  cases hwrite with
  | presented hp =>
    obtain ⟨-, -, -, c, hport, -⟩ := hp
    cases hreturned.port.symm.trans hport
  | started hat => cases hidle.symm.trans hat.busy
  | polling h => cases hidle.symm.trans h.at_step.busy
  | writing h => cases hidle.symm.trans h.at_step.busy
  | returned h => exact ⟨t, _, hrun, hidle, h.le, h.result, h.wrote.sent, h.wrote.faults, h.wrote.dl⟩

/-! ### WRITE against a paced transmitter -/

/-- The acceptance and the start, as two moves of SEQ (R83, R99). -/
theorem State.presents.write_start (hp : s.presents (.write len) payload) (hdlab : s.dlab = false) (ms : List Move) :
    ∃ t, runMoves (.seq :: .seq :: ms) s = runMoves ms t ∧ WriteSlots s len payload 0 t ∧ t.regs = s.regs ∧
      t.params = s.params := by
  obtain ⟨c, hpayload, hbegin, hat⟩ := ((undisturbed_ticks s (s.ticks + 1)).presents hp).next
  have hwrote : Wrote s payload 0 s := .zero hdlab payload
  obtain ⟨t, ht, htslots, htregs, htparams⟩ := hat.counted.write_start (s₀ := s) rfl hpayload
    (hwrote.of_clearErrors rfl)
  exact ⟨t, (runMoves_cons (mv := .seq) hp.1 hbegin).trans (runMoves_cons (mv := .seq) hat.ext ht), htslots, htregs,
    htparams⟩

/-- One slot into an empty TXQ, as two moves of SEQ. -/
theorem WriteAt.run_slot (h : WriteAt s₀ len payload .poll n s) (hfits : payload.length = len.toNat)
    (hdepth : s.params.txDepth = 1) (hq : s.regs.txq = []) (ms : List Move) :
    ∃ t b, runMoves (.seq :: .seq :: ms) s = runMoves ms t ∧ WriteSlots s₀ len payload (n + 1) t ∧
      t.regs.txq = [b] ∧ t.params = s.params := by
  obtain ⟨u, hu, huat, huq, huparams⟩ := h.counted.poll_empty hq
  have huparams : u.params = s.params := huparams
  have hroom : u.regs.txq.length < u.params.txDepth := by
    rw [huq, huparams, hdepth]
    exact Nat.zero_lt_one
  obtain ⟨t, b, ht, htslots, htq, htparams⟩ := huat.counted.data hfits hroom
  have htq : t.regs.txq = u.regs.txq ++ [b] := htq
  exact ⟨t, b,
    (runMoves_cons (mv := .seq) h.at_step.ext hu).trans (runMoves_cons (mv := .seq) huat.at_step.ext ht),
    htslots, by rw [htq, huq]; rfl, htparams.trans huparams⟩

/-- `tx_done` leaves the shift register idle, and TXQ as it was (R95). -/
theorem txDone_tsr_txq (s : State) : (txDone s).regs.tsr = none ∧ (txDone s).regs.txq = s.regs.txq := by
  rcases txDone_cases s with ⟨b, -, he⟩ | ⟨hidle, he⟩ <;> rw [he]
  · exact ⟨rfl, rfl⟩
  · exact ⟨hidle, rfl⟩

/-- `tx_load` with an idle shift register takes the head of TXQ (R94). -/
theorem txLoad_txq {b : Byte} {rest : List Byte} (hq : s.regs.txq = b :: rest) (ht : s.regs.tsr = none) :
    (txLoad s).regs.txq = rest := by
  simp only [txLoad, hq, ht]

/-- `tx_done` and `tx_load` empty a TXQ of one byte, whatever the shift register held. -/
theorem run_txDone_txLoad {b : Byte} (hext : s.ext = none) (hq : s.regs.txq = [b]) (ms : List Move) :
    ∃ t, runMoves (.line .txDone :: .line .txLoad :: ms) s = runMoves ms t ∧ Undisturbed s t ∧ t.regs.txq = [] := by
  have hdone := undisturbed_move .txDone s
  obtain ⟨hidle, hkept⟩ := txDone_tsr_txq { s with ticks := s.ticks + 1 }
  have hloaded := undisturbed_move .txLoad (lineStep .txDone { s with ticks := s.ticks + 1 })
  exact ⟨_, (runMoves_cons (mv := .line .txDone) hext rfl).trans
    (runMoves_cons (mv := .line .txLoad) (hdone.ext.trans hext) rfl), hdone.trans hloaded,
    txLoad_txq (hkept.trans hq) hidle⟩

/-- After `n` slots, with one byte in TXQ: WRITE fills `j` more slots when LINE empties TXQ before the poll of each, and
stops at the next poll when a slot is left. -/
theorem WriteSlots.run_paced (h : WriteSlots s₀ len payload n s) (hfits : payload.length = len.toNat)
    (hdepth : s.params.txDepth = 1) {b : Byte} (hq : s.regs.txq = [b]) {j : Nat} (hle : n + j ≤ len.toNat) :
    ∃ t, runMoves ((List.replicate j [Move.line .txDone, .line .txLoad, .seq, .seq]).flatten ++
        if n + j < len.toNat then [.seq] else []) s = some t ∧ WriteReturned s₀ len payload (n + j) t := by
  induction j generalizing n s b with
  | zero =>
    cases h with
    | more h =>
      obtain ⟨t, ht, hreturned⟩ := h.counted.poll_held (hq ▸ List.cons_ne_nil b [])
      refine ⟨t, ?_, hreturned⟩
      rw [if_pos (by exact h.more)]
      exact runMoves_cons (mv := .seq) h.at_step.ext ht
    | done hlen h => exact ⟨s, by rw [if_neg (by exact hlen.not_lt)]; rfl, h⟩
  | succ j ih =>
    cases h with
    | more h =>
      obtain ⟨v, hv, hline, hvq⟩ := run_txDone_txLoad h.at_step.ext hq (ms := .seq :: .seq ::
        ((List.replicate j [Move.line .txDone, .line .txLoad, .seq, .seq]).flatten ++
          if n + 1 + j < len.toNat then [.seq] else []))
      obtain ⟨u, b', hu, huslots, huq, huparams⟩ := (hline.writeAt h).run_slot hfits
        ((congrArg Params.txDepth hline.params).trans hdepth) hvq
        ((List.replicate j [Move.line .txDone, .line .txLoad, .seq, .seq]).flatten ++
          if n + 1 + j < len.toNat then [.seq] else [])
      have hnext : n + (j + 1) = n + 1 + j := by omega
      rw [hnext] at hle ⊢
      obtain ⟨t, ht, hreturned⟩ := ih huslots (by rw [huparams, hline.params, hdepth]) huq hle
      exact ⟨t, hv.trans (hu.trans ht), hreturned⟩
    | done hlen h => omega

/-- Settles O44: the first slot finds TXQ empty, and each later one after LINE emptied it. -/
theorem writeCountsReadyPolls : Obligations.WriteCountsReadyPolls := by
  intro s len payload k hp hdlab hdepth hq ht hk hle
  obtain ⟨j, rfl⟩ := Nat.exists_eq_add_of_le hk
  have hsent : s.regs.sent = s.regs.wire := by simp [Regs.sent, hq, ht]
  obtain ⟨u, hu, huslots, huregs, huparams⟩ := hp.write_start hdlab
    (.seq :: .seq :: ((List.replicate j [Move.line .txDone, .line .txLoad, .seq, .seq]).flatten ++
      if 1 + j < len.toNat then [.seq] else []))
  have hudepth : u.params.txDepth = 1 := (congrArg Params.txDepth huparams).trans hdepth
  cases huslots with
  | done hlen h => omega
  | more h =>
    obtain ⟨v, b, hv, hvslots, hvq, hvparams⟩ := h.run_slot hp.length_payload hudepth
      ((congrArg Regs.txq huregs).trans hq)
      ((List.replicate j [Move.line .txDone, .line .txLoad, .seq, .seq]).flatten ++
        if 1 + j < len.toNat then [.seq] else [])
    obtain ⟨t, htrun, hreturned⟩ := WriteSlots.run_paced (n := 1) hvslots hp.length_payload
      ((congrArg Params.txDepth hvparams).trans hudepth) hvq hle
    refine ⟨t, ?_, hreturned.idle, hreturned.result, hsent ▸ hreturned.wrote.sent⟩
    rw [Nat.add_sub_cancel_left]
    exact hu.trans (hv.trans htrun)

end Sys2Proof.Machine
end

section
/-! Proofs about LINE's steps themselves (R92 to R96): what each does when it is enabled and when it is not, which
fields it can reach, and that LCR and the divisor latches have no say in it. -/

namespace Sys2Proof.Machine

variable {s : State} {b : Byte} {rest : List Byte}

/-! ### Each step by its guard -/

theorem rxDeliver_of_room (h : s.regs.rxq.length < s.params.rxDepth) :
    rxDeliver b s = { s with regs := { s.regs with rxq := s.regs.rxq ++ [b] } } := by
  rcases rxDeliver_cases b s with ⟨-, he⟩ | ⟨hfull, -⟩
  · exact he
  · exact absurd h hfull

theorem rxDeliver_of_full (h : s.params.rxDepth ≤ s.regs.rxq.length) :
    ∃ q, (q = s.regs.rxq ∨ q = s.regs.rxq.dropLast ++ [b]) ∧
      rxDeliver b s = { s with regs := { s.regs with oe := true, rxq := q }, draws := s.draws + 1 } := by
  rcases rxDeliver_cases b s with ⟨hroom, -⟩ | ⟨-, he⟩
  · exact absurd hroom h.not_gt
  · exact he

theorem txLoad_of_held (hq : s.regs.txq = b :: rest) (ht : s.regs.tsr = none) :
    txLoad s = { s with regs := { s.regs with tsr := some b, txq := rest } } := by
  simp only [txLoad, hq, ht]

/-- `tx_load` without a held byte or with a busy shift register is no step (log 14). -/
theorem txLoad_of_disabled (h : s.regs.txq = [] ∨ s.regs.tsr ≠ none) : txLoad s = s := by
  rcases txLoad_cases s with ⟨b, rest, hq, ht, -⟩ | ⟨-, he⟩
  · simp [hq, ht] at h
  · exact he

theorem txDone_of_busy (h : s.regs.tsr = some b) :
    txDone s = { s with regs := { s.regs with wire := s.regs.wire ++ [b], tsr := none } } := by
  simp only [txDone, h]

/-- `tx_done` with an idle shift register is no step (log 14). -/
theorem txDone_of_idle (h : s.regs.tsr = none) : txDone s = s := by
  simp only [txDone, h]

/-! ### A step of LINE as a step of the machine -/

theorem step_of_line {l : LineStep} (hext : s.ext = none) (hmove : s.nextMove = .line l) :
    step s = .next (lineStep l s.advance) := by
  rw [step_of_ext_none hext, hmove]
  rfl

/-- Settles O53: the step is LINE's, taken in the advanced state, whose registers and parameters are those of `s`. -/
theorem lineStepsActAsGiven : Obligations.LineStepsActAsGiven := by
  intro s l hext hmove
  refine ⟨_, step_of_line hext hmove, ?_⟩
  cases l with
  | rxDeliver b => exact ⟨rxDeliver_of_room (s := s.advance), rxDeliver_of_full (s := s.advance)⟩
  | txLoad => exact ⟨fun _ _ => txLoad_of_held (s := s.advance), txLoad_of_disabled (s := s.advance)⟩
  | txDone => exact ⟨fun _ => txDone_of_busy (s := s.advance), txDone_of_idle (s := s.advance)⟩
  | lineError => rfl

/-! ### What LINE can reach -/

/-- The fields LINE may change, taken from `t`, and all others from `s` (R92; `draws` is the model's own counter). -/
def State.withLineFieldsOf (s t : State) : State :=
  { s with
    regs := { s.regs with
      rxq := t.regs.rxq, txq := t.regs.txq, tsr := t.regs.tsr, wire := t.regs.wire, oe := t.regs.oe
      pe := t.regs.pe, fe := t.regs.fe, bi := t.regs.bi, b7 := t.regs.b7 }
    draws := t.draws }

theorem lineStep_eq_withLineFieldsOf (l : LineStep) (s : State) :
    lineStep l s = s.withLineFieldsOf (lineStep l s) := by
  cases l with
  | rxDeliver b =>
    show rxDeliver b s = s.withLineFieldsOf (rxDeliver b s)
    rcases rxDeliver_cases b s with ⟨-, he⟩ | ⟨-, q, -, he⟩ <;> rw [he] <;> rfl
  | txLoad =>
    show txLoad s = s.withLineFieldsOf (txLoad s)
    rcases txLoad_cases s with ⟨b, rest, -, -, he⟩ | ⟨-, he⟩ <;> rw [he] <;> rfl
  | txDone =>
    show txDone s = s.withLineFieldsOf (txDone s)
    rcases txDone_cases s with ⟨b, -, he⟩ | ⟨-, he⟩ <;> rw [he] <;> rfl
  | lineError => rfl

/-! ### LCR and the divisor latches have no say -/

/-- The state with the three registers LINE does not read replaced. -/
def State.withLcrDl (s : State) (lcr dll dlm : Byte) : State :=
  { s with regs := { s.regs with lcr := lcr, dll := dll, dlm := dlm } }

/-- Neither the guard of a delivery nor the choice of an overrun reads a replaced register. -/
theorem rxDeliver_withLcrDl (b : Byte) (s : State) (lcr dll dlm : Byte) :
    rxDeliver b (s.withLcrDl lcr dll dlm) = (rxDeliver b s).withLcrDl lcr dll dlm := by
  unfold rxDeliver
  rw [apply_ite (State.withLcrDl · lcr dll dlm)]
  rfl

theorem txLoad_withLcrDl (s : State) (lcr dll dlm : Byte) :
    txLoad (s.withLcrDl lcr dll dlm) = (txLoad s).withLcrDl lcr dll dlm := by
  rcases txLoad_cases s with ⟨b, rest, hq, ht, he⟩ | ⟨hdisabled, he⟩
  · rw [he]
    exact txLoad_of_held (s := s.withLcrDl lcr dll dlm) hq ht
  · rw [he]
    exact txLoad_of_disabled (s := s.withLcrDl lcr dll dlm) (or_iff_not_and_not.mpr fun h =>
      hdisabled ⟨h.1, not_not.mp h.2⟩)

theorem txDone_withLcrDl (s : State) (lcr dll dlm : Byte) :
    txDone (s.withLcrDl lcr dll dlm) = (txDone s).withLcrDl lcr dll dlm := by
  rcases txDone_cases s with ⟨b, ht, he⟩ | ⟨ht, he⟩
  · rw [he]
    exact txDone_of_busy (s := s.withLcrDl lcr dll dlm) ht
  · rw [he]
    exact txDone_of_idle (s := s.withLcrDl lcr dll dlm) ht

theorem lineStep_withLcrDl (l : LineStep) (s : State) (lcr dll dlm : Byte) :
    lineStep l (s.withLcrDl lcr dll dlm) = (lineStep l s).withLcrDl lcr dll dlm := by
  cases l with
  | rxDeliver b => exact rxDeliver_withLcrDl b s lcr dll dlm
  | txLoad => exact txLoad_withLcrDl s lcr dll dlm
  | txDone => exact txDone_withLcrDl s lcr dll dlm
  | lineError => rfl

/-- Settles O51: LINE's fields are the only ones a step changes, and replacing LCR, DLL and DLM commutes with every
step. -/
theorem lineTouchesOnlyItsOwn : Obligations.LineTouchesOnlyItsOwn := fun l s =>
  ⟨⟨_, _, _, _, _, _, _, _, _, _, lineStep_eq_withLineFieldsOf l s⟩, lineStep_withLcrDl l s⟩

end Sys2Proof.Machine
end

section
/-! The one access of a SEQ step: whatever the command and the label, a step of a micro-program makes at most one bus
access, and what else it does changes neither REGS nor the parameters (R9, R22). -/

namespace Sys2Proof.Machine

/-- `u` is `s` after the one access that a step of `i` at label `l` may make. -/
inductive SeqAccess (i : Instr) (l : Label) (s : State) : State → Prop
  /-- The step makes no access. -/
  | none : SeqAccess i l s s
  /-- A read, at an offset with a register. -/
  | read {off : BitVec 3} (hoff : regrdOffsetLegal off = true) : SeqAccess i l s (busRead off s)
  | lcrWrite (v : Byte) : SeqAccess i l s (busWrite offLcr v s)
  | offBWrite (v : Byte) : SeqAccess i l s (busWrite offB v s)
  /-- A write to register A in a latch window the command opened. -/
  | windowWrite (hl : l.inWindow = true) (v : Byte) : SeqAccess i l s (busWrite offA v s)
  /-- A write to register A after a poll that saw THRE. -/
  | polledWrite (hl : l = .data) (hi : polledFlag i = Regs.thre) (v : Byte) : SeqAccess i l s (busWrite offA v s)
  /-- REGWR's write, which no poll precedes (R121). -/
  | rawWrite {off : BitVec 3} {v : Byte} (hi : i = .regwr off v) : SeqAccess i l s (busWrite off v s)

/-- From `s` to `t` REGS and the parameters change by the one access of the step only. -/
def OneAccess (i : Instr) (l : Label) (s t : State) : Prop :=
  ∃ u, SeqAccess i l s u ∧ t.regs = u.regs ∧ t.params = u.params

/-- `f` changes neither REGS nor the parameters: what a step does after its access. -/
structure KeepsRegs (f : State → State) : Prop where
  regs : ∀ u, (f u).regs = u.regs
  params : ∀ u, (f u).params = u.params

variable {i : Instr} {l : Label} {s t : State}

/-! ### The ends of a step -/

theorem keepsRegs_goto (l : Label) : KeepsRegs (State.goto l) := ⟨fun _ => rfl, fun _ => rfl⟩

theorem keepsRegs_ret (st : Status) (v : State → Word) (data : State → List Byte) :
    KeepsRegs fun u => u.ret st (v u) (data u) := ⟨fun _ => rfl, fun _ => rfl⟩

theorem keepsRegs_retOk : KeepsRegs State.retOk := keepsRegs_ret .ok (fun _ => 0#32) fun _ => []

theorem keepsRegs_retWouldBlock : KeepsRegs State.retWouldBlock :=
  keepsRegs_ret .wouldBlock (fun _ => 0#32) fun _ => []

theorem keepsRegs_readReturn : KeepsRegs readReturn :=
  keepsRegs_ret .ok (fun u => u.seq.cnt.setWidth 32) fun u => u.seq.out

theorem keepsRegs_writeReturn : KeepsRegs writeReturn :=
  keepsRegs_ret .ok (fun u => u.seq.cnt.setWidth 32) fun _ => []

theorem keepsRegs_readLoop (len : Half) : KeepsRegs (readLoop len) := ⟨readLoop_regs len, readLoop_params len⟩

theorem keepsRegs_writeLoop (len : Half) : KeepsRegs (writeLoop len) := ⟨writeLoop_regs len, writeLoop_params len⟩

/-- An access, assignments to SEQ's registers, and an end of the step. -/
theorem SeqAccess.oneAccess {u u' : State} {f : State → State} (h : SeqAccess i l s u) (hf : KeepsRegs f)
    (hregs : u'.regs = u.regs) (hparams : u'.params = u.params) : OneAccess i l s (f u') :=
  ⟨u, h, (hf.regs u').trans hregs, (hf.params u').trans hparams⟩

/-- A poll, and the end that its value chooses. -/
theorem oneAccess_poll {f g : State → State} (hf : KeepsRegs f) (hg : KeepsRegs g) (seen : Bool) :
    OneAccess i l s (if seen then f (poll s) else g (poll s)) := by
  have hread : SeqAccess i l s (busRead offLsr s) := .read rfl
  split
  · exact hread.oneAccess hf rfl rfl
  · exact hread.oneAccess hg rfl rfl

/-! ### The micro-programs -/

theorem setdivSteps_oneAccess {d : Half} {after : State → State} (hafter : KeepsRegs after)
    (h : setdivSteps d after l s = some t) : OneAccess i l s t := by
  cases l <;> cases h
  case lcrSave => exact ⟨_, .read (off := offLcr) rfl, rfl, rfl⟩
  case latchOpen => exact ⟨_, .lcrWrite _, rfl, rfl⟩
  case divLow => exact ⟨_, .windowWrite rfl _, rfl, rfl⟩
  case divHigh => exact ⟨_, .offBWrite _, rfl, rfl⟩
  case lcrRestore => exact (SeqAccess.lcrWrite _).oneAccess hafter rfl rfl

theorem getdivSteps_oneAccess {after : State → State} (hafter : KeepsRegs after)
    (h : getdivSteps after l s = some t) : OneAccess i l s t := by
  cases l
  case lcrSave =>
    cases h
    exact ⟨_, .read (off := offLcr) rfl, rfl, rfl⟩
  case latchOpen =>
    cases h
    exact ⟨_, .lcrWrite _, rfl, rfl⟩
  case divLow =>
    cases h
    exact ⟨_, .read (off := offA) rfl, rfl, rfl⟩
  case divHigh =>
    cases h
    have hread : SeqAccess i .divHigh s (busRead offB s) := .read rfl
    split
    · exact ⟨_, hread, rfl, rfl⟩
    · exact hread.oneAccess hafter rfl rfl
  case lcrRestore =>
    simp only [getdivSteps, Option.ite_none_right_eq_some, Option.some.injEq] at h
    obtain ⟨-, rfl⟩ := h
    exact (SeqAccess.lcrWrite _).oneAccess hafter rfl rfl
  all_goals cases h

theorem setparSteps_oneAccess {p : BitVec 3} {after : State → State} (hafter : KeepsRegs after)
    (h : setparSteps p after l s = some t) : OneAccess i l s t := by
  cases l
  case parRead =>
    cases h
    exact ⟨_, .read (off := offLcr) rfl, rfl, rfl⟩
  case parWrite =>
    cases hv : setPar s.seq.s p <;> simp only [setparSteps, hv] at h <;> cases h
    exact (SeqAccess.lcrWrite _).oneAccess hafter rfl rfl
  all_goals cases h

theorem setstopSteps_oneAccess {k : BitVec 1} {after : State → State} (hafter : KeepsRegs after)
    (h : setstopSteps k after l s = some t) : OneAccess i l s t := by
  cases l <;> cases h
  case stopRead => exact ⟨_, .read (off := offLcr) rfl, rfl, rfl⟩
  case stopWrite => exact (SeqAccess.lcrWrite _).oneAccess hafter rfl rfl

theorem setwlenSteps_oneAccess {n : BitVec 2} {after : State → State} (hafter : KeepsRegs after)
    (h : setwlenSteps n after l s = some t) : OneAccess i l s t := by
  cases l <;> cases h
  case wlenRead => exact ⟨_, .read (off := offLcr) rfl, rfl, rfl⟩
  case wlenWrite => exact (SeqAccess.lcrWrite _).oneAccess hafter rfl rfl

theorem initSteps_oneAccess {h : BitVec 1} {p : BitVec 3} {k : BitVec 1} {n : BitVec 2} {d : Half}
    (ht : initSteps h p k n d l s = some t) : OneAccess i l s t := by
  cases l
  case parRead | parWrite =>
    simp only [initSteps] at ht
    exact setparSteps_oneAccess (keepsRegs_goto _) ht
  case stopRead | stopWrite =>
    simp only [initSteps] at ht
    exact setstopSteps_oneAccess (keepsRegs_goto _) ht
  case wlenRead | wlenWrite =>
    simp only [initSteps] at ht
    exact setwlenSteps_oneAccess keepsRegs_retOk ht
  case rawAccess | start | poll | data | spin => cases ht
  all_goals
    simp only [initSteps, Option.ite_none_right_eq_some] at ht
    exact setdivSteps_oneAccess (keepsRegs_goto _) ht.2

theorem getcfgSteps_oneAccess (h : getcfgSteps l s = some t) : OneAccess i l s t := by
  cases l
  case lcrSave | latchOpen | divLow | divHigh | lcrRestore => exact getdivSteps_oneAccess (keepsRegs_goto .parRead) h
  case parRead | stopRead | wlenRead =>
    cases h
    exact ⟨_, .read (off := offLcr) rfl, rfl, rfl⟩
  all_goals cases h

theorem readSteps_oneAccess {len : Half} (h : readSteps len l s = some t) : OneAccess i l s t := by
  cases l <;> cases h
  case start => exact SeqAccess.none.oneAccess (keepsRegs_readLoop len) rfl rfl
  case poll => exact oneAccess_poll (keepsRegs_goto .data) keepsRegs_readReturn _
  case data => exact (SeqAccess.read (off := offA) rfl).oneAccess (keepsRegs_readLoop len) rfl rfl

theorem writeSteps_oneAccess {len : Half} (h : writeSteps len l s = some t) : OneAccess (.write len) l s t := by
  cases l
  case start =>
    cases h
    exact SeqAccess.none.oneAccess (keepsRegs_writeLoop len) rfl rfl
  case poll =>
    cases h
    exact oneAccess_poll (keepsRegs_goto .data) keepsRegs_writeReturn _
  case data =>
    cases hb : s.seq.payload[s.seq.i.toNat]? <;> simp only [writeSteps, hb] at h <;> cases h
    exact (SeqAccess.polledWrite rfl rfl _).oneAccess (keepsRegs_writeLoop len) rfl rfl
  all_goals cases h

theorem flushSteps_oneAccess (h : flushSteps l s = some t) : OneAccess i l s t := by
  cases l <;> cases h
  case poll => exact oneAccess_poll keepsRegs_retOk (keepsRegs_goto .spin) _
  case spin => exact ⟨_, .none, rfl, rfl⟩

theorem rdnbSteps_oneAccess (h : rdnbSteps l s = some t) : OneAccess i l s t := by
  cases l <;> cases h
  case poll => exact oneAccess_poll (keepsRegs_goto .data) keepsRegs_retWouldBlock _
  case data => exact ⟨_, .read (off := offA) rfl, rfl, rfl⟩

theorem wrnbSteps_oneAccess {b : Byte} (h : wrnbSteps b l s = some t) : OneAccess (.wrnb b) l s t := by
  cases l <;> cases h
  case poll => exact oneAccess_poll (keepsRegs_goto .data) keepsRegs_retWouldBlock _
  case data => exact ⟨_, .polledWrite rfl rfl b, rfl, rfl⟩

theorem flnbStep_oneAccess (h : flnbStep l s = some t) : OneAccess i l s t := by
  cases l <;> cases h
  exact oneAccess_poll keepsRegs_retOk keepsRegs_retWouldBlock _

/-- A step of a legal command makes at most one access, of a kind its label and the command tell. -/
theorem microSteps_oneAccess (hlegal : i.wellFormed = true) (h : microSteps i l s = some t) : OneAccess i l s t := by
  cases i
  case getdiv =>
    exact getdivSteps_oneAccess
      (keepsRegs_ret .ok (fun u => (divOf u.seq.hi u.seq.lo).setWidth 32) fun _ => []) h
  case setdiv => exact setdivSteps_oneAccess keepsRegs_retOk h
  case setpar => exact setparSteps_oneAccess keepsRegs_retOk h
  case setstop => exact setstopSteps_oneAccess keepsRegs_retOk h
  case setwlen => exact setwlenSteps_oneAccess keepsRegs_retOk h
  case init => exact initSteps_oneAccess h
  case getcfg => exact getcfgSteps_oneAccess h
  case read => exact readSteps_oneAccess h
  case write => exact writeSteps_oneAccess h
  case flush => exact flushSteps_oneAccess h
  case rdnb => exact rdnbSteps_oneAccess h
  case wrnb => exact wrnbSteps_oneAccess h
  case flnb => exact flnbStep_oneAccess h
  case getpar | getstop | getwlen =>
    cases l <;> cases h
    exact ⟨_, .read (off := offLcr) rfl, rfl, rfl⟩
  case rdrdy | wrrdy =>
    cases l <;> cases h
    exact ⟨_, .read (off := offLsr) rfl, rfl, rfl⟩
  case regrd =>
    cases l <;> cases h
    exact ⟨_, .read hlegal, rfl, rfl⟩
  case regwr =>
    cases l <;> cases h
    exact ⟨_, .rawWrite rfl, rfl, rfl⟩
  all_goals cases h

end Sys2Proof.Machine
end

section
/-! The fault marks (R101, R102) and the parameters (R5): what a step of SEQ can mark, and that no step but a reset
removes a mark. -/

namespace Sys2Proof.Machine

variable {i : Instr} {l : Label} {s t u : State}

/-! ### The one fault of the block's own system -/

/-- SEQ runs `REGWR 0` at a full TXQ, with DLAB = 0. -/
theorem State.pokesThr_of_regwr {v : Byte} (hbusy : s.seq.phase = .busy)
    (hword : decodeCommand s.seq.cmd = .ok (.regwr offA v)) (hdlab : s.dlab = false) : s.pokesThr = true := by
  simp only [State.pokesThr, hbusy, hword, hdlab]
  rfl

/-- What a poll or a window promises rules out the overwrite for every access but REGWR's. -/
theorem SeqAccess.faults (h : SeqAccess i l s u) (hlegal : i.wellFormed = true) (hdepth : 1 ≤ s.params.txDepth)
    (hpolled : l = .data → polledFlag i s.regs = true) (hwindow : l.inWindow = true → s.dlab = true) :
    u.regs.faults = s.regs.faults ∨
    ((∃ v, i = .regwr offA v) ∧ s.dlab = false ∧ s.params.txDepth ≤ s.regs.txq.length ∧
      u.regs.faults = { s.regs.faults with txOverwrite := true }) := by
  cases h with
  | none => exact .inl rfl
  | read hoff => exact .inl (busRead_faults hoff s)
  | lcrWrite v => exact .inl (by rw [busWrite_lcr_regs])
  | offBWrite v => exact .inl (busWrite_offB_faults v s)
  | windowWrite hl v =>
    left
    rw [busWrite_offA_faults, hwindow hl, if_neg (by simp)]
  | polledWrite hl hi v =>
    have hroom : s.regs.txq.length < s.params.txDepth := by
      have hthre := hpolled hl
      rw [hi, Regs.thre_eq_decide, decide_eq_true_eq] at hthre
      rwa [hthre]
    left
    rw [busWrite_offA_faults, if_neg fun hfull => hfull.2 hroom]
  | @rawWrite off v hi =>
    subst hi
    have hoff : off = offA ∨ off = offB ∨ off = offLcr := by
      clear hpolled
      replace hlegal : regwrOffsetLegal off = true := hlegal
      revert off
      decide
    rcases hoff with rfl | rfl | rfl
    · rw [busWrite_offA_faults]
      split
      next hfull => exact .inr ⟨⟨v, rfl⟩, hfull.1, not_lt.mp hfull.2, rfl⟩
      next => exact .inl rfl
    · exact .inl (busWrite_offB_faults v s)
    · exact .inl (by rw [busWrite_lcr_regs])

/-- A step of SEQ marks nothing, or it is REGWR's overwrite. -/
theorem seqStep_faults (hwf : s.wf = true) (hs : OwnFacts s) (h : seqStep s = .next t) :
    t.regs.faults = s.regs.faults ∨
    (s.pokesThr = true ∧ s.regs.txq.length = s.params.txDepth ∧
      t.regs.faults = { s.regs.faults with txOverwrite := true }) := by
  rcases seqStep_next h with rfl | rfl | ⟨c, i, -, rfl⟩ | ⟨i, l, hbusy, hpc, hword, hstep⟩
  · exact .inl rfl
  · exact .inl rfl
  · exact .inl rfl
  · obtain ⟨hparams, ⟨-, htxq⟩, -⟩ := State.wf_iff.mp hwf
    have hlegal := (decodeCommand_ok hword).2
    obtain ⟨u, haccess, hregs, -⟩ := microSteps_oneAccess hlegal hstep
    have hpolled : l = .data → polledFlag i s.regs = true := fun hl =>
      State.pollHolds_iff.mp hs.poll i hbusy (hl ▸ hpc) hword
    rw [hregs]
    refine (haccess.faults hlegal (paramsWf_depths hparams).2 hpolled
      (State.windowOpen_iff.mp hs.window l hbusy hpc)).imp_right ?_
    rintro ⟨⟨v, rfl⟩, hdlab, hfull, hmark⟩
    exact ⟨State.pokesThr_of_regwr hbusy hword hdlab, le_antisymm htxq hfull, hmark⟩

/-- LINE marks no fault (R92). -/
theorem lineStep_faults (m : LineStep) (s : State) : (lineStep m s).regs.faults = s.regs.faults := by
  rw [lineStep_eq_withLineFieldsOf]
  rfl

/-- HOST touches neither REGS nor the parameters. -/
theorem keepsRegs_hostPresent (c : Command) : KeepsRegs (hostPresent c) := by
  constructor <;> intro u <;> rcases hostPresent_cases c u with ⟨-, -, he⟩ | ⟨-, he⟩ <;> rw [he]

/-- Settles O57: an access of a command that polled finds TXQ empty, one in a window finds DLL, a read and a write of
another register mark nothing, and so only REGWR at a full TXQ is left. -/
theorem onlyRawWriteRaisesFault : Obligations.OnlyRawWriteRaisesFault := by
  intro s t hwf hext hpoll hwindow hmove hstep
  have hs : OwnFacts s := ⟨hext, hpoll, hwindow⟩
  rw [step_of_ext_none hext] at hstep
  cases hnext : s.nextMove with
  | seq =>
    rw [hnext] at hstep
    exact seqStep_faults (s := s.advance) hwf (hs.of_seq_eq rfl rfl rfl id id) hstep
  | line m =>
    rw [hnext] at hstep
    cases hstep
    exact .inl (lineStep_faults m s.advance)
  | host c =>
    rw [hnext] at hstep
    cases hstep
    exact .inl (by rw [(keepsRegs_hostPresent c).regs]; rfl)
  | reset => exact absurd hnext hmove

/-! ### Marks are sticky -/

/-- Every mark of `m` is a mark of `m'`. -/
def FaultMarks.Within (m m' : FaultMarks) : Prop := ∀ c, m.has c = true → m'.has c = true

theorem FaultMarks.within_of_eq {m m' : FaultMarks} (h : m' = m) : m.Within m' := fun _ hc => h ▸ hc

/-- Adding a mark adds its code (R10). -/
theorem FaultMarks.has_add (m : FaultMarks) (c c' : FaultCode) : (m.add c).has c' = (decide (c = c') || m.has c') := by
  cases c <;> cases c' <;> rfl

/-- And removes none. -/
theorem FaultMarks.within_add (m : FaultMarks) (c : FaultCode) : m.Within (m.add c) := fun c' hc' => by
  rw [m.has_add, hc', Bool.or_true]

/-- What a move may do with the marks and the parameters. -/
structure KeepsMarks (s t : State) : Prop where
  params : t.params = s.params
  marks : s.regs.faults.Within t.regs.faults

theorem KeepsMarks.of_eq (hparams : t.params = s.params) (hfaults : t.regs.faults = s.regs.faults) : KeepsMarks s t :=
  ⟨hparams, FaultMarks.within_of_eq hfaults⟩

/-- Of the operations THR_WR and LSR_WR may mark a fault (R51, R61), and none removes one. -/
theorem regsApply_keepsMarks (i : Instr) (s : State) : KeepsMarks s (regsApply i s) := by
  refine ⟨(regsApply_sameOutsideRegs i s).params, ?_⟩
  cases i
  case thrWr wd =>
    simp only [regsApply, thrWrite]
    split
    · exact FaultMarks.within_of_eq rfl
    · exact FaultMarks.within_add _ _
  case lsrWr wd => exact FaultMarks.within_add _ _
  case rbrRd =>
    simp only [regsApply, rbrRead]
    split <;> exact FaultMarks.within_of_eq rfl
  case lsrRd =>
    simp only [regsApply, lsrRead]
    split <;> exact FaultMarks.within_of_eq rfl
  all_goals exact FaultMarks.within_of_eq rfl

theorem undecodedAccess_keepsMarks (we : Bool) (s : State) : KeepsMarks s (undecodedAccess we s) := by
  refine ⟨(undecodedAccess_sameOutsideRegs we s).params, ?_⟩
  cases we <;> exact FaultMarks.within_add _ _

theorem busAccess_keepsMarks (we : Bool) (off : BitVec 3) (wd : Byte) (s : State) :
    KeepsMarks s (busAccess we off wd s) := by
  cases hkey : decodeKey (busKey s.dlab we off) wd with
  | ok i =>
    rw [busAccess_of_decodeKey_ok hkey]
    exact regsApply_keepsMarks i s
  | error e =>
    rw [busAccess_of_decodeKey_error hkey]
    exact undecodedAccess_keepsMarks we s

theorem SeqAccess.keepsMarks (h : SeqAccess i l s u) : KeepsMarks s u := by
  cases h
  case none => exact .of_eq rfl rfl
  all_goals exact busAccess_keepsMarks _ _ _ s

theorem seqStep_keepsMarks (h : seqStep s = .next t) : KeepsMarks s t := by
  rcases seqStep_next h with rfl | rfl | ⟨c, i, -, rfl⟩ | ⟨i, l, -, -, hword, hstep⟩
  · exact .of_eq rfl rfl
  · exact .of_eq rfl rfl
  · exact .of_eq rfl rfl
  · obtain ⟨u, haccess, hregs, hparams⟩ := microSteps_oneAccess (decodeCommand_ok hword).2 hstep
    obtain ⟨hp, hm⟩ := haccess.keepsMarks
    exact ⟨hparams.trans hp, hregs ▸ hm⟩

theorem busStep_keepsMarks {a : BusAccess} (h : busStep a s = .next t) : KeepsMarks s t := by
  rcases busStep_cases a s with ⟨off, he⟩ | he | he <;> rw [he] at h <;> cases h
  · exact busAccess_keepsMarks ..
  · exact undecodedAccess_keepsMarks ..
  · exact .of_eq rfl rfl

theorem takeMove_keepsMarks {m : Move} (hm : m ≠ .reset) (h : takeMove m s = .next t) : KeepsMarks s t := by
  cases m with
  | seq => exact seqStep_keepsMarks h
  | line m =>
    cases h
    exact .of_eq (lineStep_sameOutsideLine m s).params (lineStep_faults m s)
  | host c =>
    cases h
    exact .of_eq ((keepsRegs_hostPresent c).params s) (by rw [(keepsRegs_hostPresent c).regs])
  | reset => exact absurd rfl hm

/-- Settles O58: every access, SEQ's or an outside master's, adds a mark or none; LINE and HOST touch no mark; and reset,
which alone clears them, keeps the parameters too. -/
theorem faultsStickyParamsFixed : Obligations.FaultsStickyParamsFixed := by
  intro s t hstep
  cases hext : s.ext with
  | some a =>
    rw [step_of_ext_some hext] at hstep
    obtain ⟨hparams, hmarks⟩ := busStep_keepsMarks hstep
    exact ⟨hparams, fun _ => hmarks⟩
  | none =>
    rw [step_of_ext_none hext] at hstep
    by_cases hmove : s.nextMove = .reset
    · rw [hmove] at hstep
      cases hstep
      refine ⟨rfl, fun h => ?_⟩
      rcases h with hbus | hother
      · exact absurd rfl hbus
      · exact absurd hmove hother
    · obtain ⟨hparams, hmarks⟩ := takeMove_keepsMarks hmove hstep
      exact ⟨hparams, fun _ => hmarks⟩

end Sys2Proof.Machine
end

section
/-! Acceptance (R99): a legal command starts at its micro-program's first label, an illegal one is rejected, and HOST
presents a command. -/

namespace Sys2Proof.Machine

variable {i : Instr} {first : Label} {c : Command} {s : State}

theorem accept_of_legal (hport : s.port = some c) (hlegal : i.wellFormed = true)
    (hfits : payloadFits i c.payload = true) : accept i first s = s.begin c first := by
  simp only [accept, hport, hlegal, hfits, Bool.and_self, if_true]

theorem accept_of_misfit (hport : s.port = some c) (hmisfit : payloadFits i c.payload = false) :
    accept i first s = s.reject := by
  simp [accept, hport, hmisfit]

/-- A micro-program starts at the first of its labels. -/
theorem labelsOf_head? (hcommand : i.isCommand = true) (restore : Bool) :
    (labelsOf restore i).head? = some (firstLabel i) := by
  cases i
  case init hasdiv par k n d => by_cases hdiv : hasdiv = 1#1 <;> simp [firstLabel, labelsOf, hdiv]
  case rbrRd | thrWr | dllRd | dllWr | ierRd | ierWr | dlmRd | dlmWr | lcrRd | lcrWr | lsrRd | lsrWr => cases hcommand
  all_goals rfl

/-- Settles O23: while IDLE a command's execution is its acceptance, which begins it at `firstLabel`. -/
theorem legalCommandStarts : Obligations.LegalCommandStarts := by
  intro s i c l hcommand hlegal hfits hidle hport hfirst
  obtain rfl : firstLabel i = l := Option.some.inj ((labelsOf_head? hcommand _).symm.trans hfirst)
  rw [exec_command hcommand, micro_idle _ _ _ _ hidle, accept_of_legal hport hlegal hfits]
  rfl

/-- While IDLE, SEQ answers a word that spells no command, or a payload that is not its command's, by a rejection. -/
theorem seqStep_of_illegal (hidle : s.seq.phase = .idle) (hport : s.port = some c)
    (hillegal : ∀ i, decodeCommand c.word = .ok i → payloadFits i c.payload = false) :
    seqStep s = .next s.reject := by
  have hword := State.fetchWord_idle hidle hport
  cases hdec : decodeCommand c.word with
  | error e => simp only [seqStep, hword, hdec, hidle]
  | ok i =>
    rw [seqStep_of_decodeCommand_ok hword hdec, exec_command (decodeCommand_ok hdec).1, micro_idle _ _ _ _ hidle,
      accept_of_misfit hport (hillegal i hdec)]

theorem step_of_host (hext : s.ext = none) (hmove : s.nextMove = .host c) :
    step s = .next (hostPresent c s.advance) := by
  rw [step_of_ext_none hext, hmove]
  rfl

/-- Settles O24: SEQ's step on an illegal command is `State.reject`, and HOST's move fills an empty port while SEQ is
IDLE only. -/
theorem illegalCommandRejected : Obligations.IllegalCommandRejected := by
  refine ⟨fun s c hext hmove hidle hport hillegal => ?_, fun s c hext hmove => ?_⟩
  · rw [step_of_ext_none hext, hmove]
    exact seqStep_of_illegal (s := s.advance) hidle hport hillegal
  · rw [step_of_host hext hmove]
    rcases hostPresent_cases c s.advance with ⟨hidle, -, he⟩ | ⟨hkept, he⟩ <;> rw [he]
    · refine ⟨fun hbusy => ?_, fun _ _ => rfl⟩
      cases hbusy.symm.trans hidle
    · exact ⟨fun _ => rfl, fun hidle hport => absurd ⟨hidle, hport⟩ hkept⟩

end Sys2Proof.Machine
end

section
/-! How a step of SEQ moves DLAB: what each micro-program does to LCR and to the saved value that it will write back
(R69 to R81). -/

namespace Sys2Proof.Machine

variable {i : Instr} {l : Label} {s t : State}

/-! ### What a step does to the latch -/

/-- SEQ stands at no label that holds a saved value. -/
def State.savesNothing (t : State) : Prop := ∀ l, t.seq.pc = some l → l.holdsSaved = false

/-- What a step of `i` at label `l` can do to DLAB and to the saved LCR value. -/
inductive LatchMove (i : Instr) (l : Label) (s t : State) : Prop
  /-- LCR stays. A window is left this way only by a GETDIV that does not restore. -/
  | keep (hl : l.inWindow = true → s.params.getdivRestore = false) (hlcr : t.regs.lcr = s.regs.lcr)
      (hfree : t.savesNothing)
  /-- LCR is saved, outside every window. -/
  | save {l' : Label} (hl : l.inWindow = false) (hlcr : t.regs.lcr = s.regs.lcr) (hs : t.seq.s = s.regs.lcr)
      (hpc : t.seq.pc = some l')
  /-- The window is opened, or an access is made inside it. -/
  | window {l' : Label} (hl : l.holdsSaved = true) (hdlab : s.dlab = true → t.dlab = true)
      (hs : t.seq.s = s.seq.s) (hpc : t.seq.pc = some l') (hl' : l'.inWindow = true)
  /-- The saved value is written back, in another field perhaps. -/
  | restore (hl : l.holdsSaved = true) (hdlab : t.dlab = dlabOf s.seq.s) (hfree : t.savesNothing)
  /-- REGWR writes LCR itself. -/
  | raw {v : Byte} (hi : i = .regwr offLcr v) (hdlab : t.dlab = dlabOf v) (hfree : t.savesNothing)

/-- `f` ends a step without touching LCR, at a label that holds no saved value or at none. -/
structure EndsFree (f : State → State) : Prop where
  lcr : ∀ u, (f u).regs.lcr = u.regs.lcr
  free : ∀ u, (f u).savesNothing

/-! ### The ends of a step -/

theorem savesNothing_of_label (hpc : t.seq.pc = some l) (hl : l.holdsSaved = false) : t.savesNothing := by
  intro l' hl'
  cases hpc.symm.trans hl'
  exact hl

theorem savesNothing_of_no_label (hpc : t.seq.pc = none) : t.savesNothing := by
  intro l hl
  cases hpc.symm.trans hl

theorem endsFree_goto (hl : l.holdsSaved = false) : EndsFree (State.goto l) :=
  ⟨fun _ => rfl, fun _ => savesNothing_of_label rfl hl⟩

theorem endsFree_ret (st : Status) (v : State → Word) (data : State → List Byte) :
    EndsFree fun u => u.ret st (v u) (data u) :=
  ⟨fun _ => rfl, fun _ => savesNothing_of_no_label rfl⟩

theorem endsFree_retOk : EndsFree State.retOk := endsFree_ret .ok (fun _ => 0#32) fun _ => []

theorem endsFree_retWouldBlock : EndsFree State.retWouldBlock := endsFree_ret .wouldBlock (fun _ => 0#32) fun _ => []

theorem EndsFree.ite {f g : State → State} (hf : EndsFree f) (hg : EndsFree g) (c : State → Prop)
    [DecidablePred c] : EndsFree fun u => if c u then f u else g u := by
  constructor <;> intro u <;> split
  · exact hf.lcr u
  · exact hg.lcr u
  · exact hf.free u
  · exact hg.free u

theorem endsFree_readReturn : EndsFree readReturn :=
  endsFree_ret .ok (fun u => u.seq.cnt.setWidth 32) fun u => u.seq.out

theorem endsFree_writeReturn : EndsFree writeReturn :=
  endsFree_ret .ok (fun u => u.seq.cnt.setWidth 32) fun _ => []

theorem endsFree_readLoop (len : Half) : EndsFree (readLoop len) :=
  (endsFree_goto (l := .poll) rfl).ite endsFree_readReturn fun u => u.seq.i < len

theorem endsFree_writeLoop (len : Half) : EndsFree (writeLoop len) :=
  (endsFree_goto (l := .poll) rfl).ite endsFree_writeReturn fun u => u.seq.i < len

/-- A step outside every window that leaves LCR, up to its end. -/
theorem EndsFree.keep {f : State → State} {u : State} (hf : EndsFree f) (hl : l.inWindow = false)
    (hlcr : u.regs.lcr = s.regs.lcr) : LatchMove i l s (f u) :=
  .keep (fun hopen => by rw [hl] at hopen; cases hopen) ((hf.lcr u).trans hlcr) (hf.free u)

/-- A write back of the saved value, up to its end. -/
theorem EndsFree.restore {f : State → State} {v : Byte} (hf : EndsFree f) (hl : l.holdsSaved = true)
    (hv : dlabOf v = dlabOf s.seq.s) : LatchMove i l s (f (busWrite offLcr v s)) := by
  refine .restore hl ?_ (hf.free _)
  rw [State.dlab, hf.lcr, busWrite_lcr_regs, hv]

/-! ### The configuration commands -/

theorem readIntoS_latchMove {l' : Label} (hl : l.inWindow = false) : LatchMove i l s (readIntoS l' s) :=
  .save hl (busRead_regs_lcr offLcr s) (busRead_lcr_rd s) rfl

/-- An access of SETDIV inside its window, or the write that opens it. -/
theorem busWrite_goto_latchMove {off : BitVec 3} {v : Byte} {l' : Label} (hl : l.holdsSaved = true)
    (hdlab : s.dlab = true → (busWrite off v s).dlab = true) (hl' : l'.inWindow = true) :
    LatchMove i l s ((busWrite off v s).goto l') :=
  .window hl hdlab (congrArg Seq.s (busWrite_seq off v s) :) rfl hl'

theorem setdivSteps_latchMove {d : Half} {after : State → State} (hafter : EndsFree after)
    (h : setdivSteps d after l s = some t) : LatchMove i l s t := by
  cases l <;> cases h
  case lcrSave => exact readIntoS_latchMove rfl
  case latchOpen => exact busWrite_goto_latchMove rfl (fun _ => busWrite_withLatch_dlab ..) rfl
  case divLow => exact busWrite_goto_latchMove rfl (busWrite_offA_dlab ..).trans rfl
  case divHigh => exact busWrite_goto_latchMove rfl (busWrite_offB_dlab ..).trans rfl
  case lcrRestore => exact hafter.restore rfl rfl

theorem getdivSteps_latchMove {after : State → State} (hafter : EndsFree after)
    (h : getdivSteps after l s = some t) : LatchMove i l s t := by
  cases l
  case lcrSave =>
    cases h
    exact readIntoS_latchMove rfl
  case latchOpen =>
    cases h
    exact busWrite_goto_latchMove rfl (fun _ => busWrite_withLatch_dlab ..) rfl
  case divLow =>
    cases h
    exact .window rfl (busRead_dlab ..).trans (congrArg Seq.s (busRead_seq offA s) :) rfl rfl
  case divHigh =>
    cases h
    split
    next => exact .window rfl (busRead_dlab ..).trans (congrArg Seq.s (busRead_seq offB s) :) rfl rfl
    next hkept =>
      exact .keep (fun _ => by simpa using hkept) ((hafter.lcr _).trans (busRead_regs_lcr offB s)) (hafter.free _)
  case lcrRestore =>
    simp only [getdivSteps, Option.ite_none_right_eq_some, Option.some.injEq] at h
    obtain ⟨-, rfl⟩ := h
    exact hafter.restore rfl rfl
  all_goals cases h

theorem setparSteps_latchMove {p : BitVec 3} {after : State → State} (hafter : EndsFree after)
    (h : setparSteps p after l s = some t) : LatchMove i l s t := by
  cases l
  case parRead =>
    cases h
    exact readIntoS_latchMove rfl
  case parWrite =>
    cases hv : setPar s.seq.s p <;> simp only [setparSteps, hv] at h <;> cases h
    obtain ⟨-, -, -, hkept⟩ := setPar_some hv
    exact hafter.restore rfl (hkept 7 (.inr (by decide)))
  all_goals cases h

theorem setstopSteps_latchMove {k : BitVec 1} {after : State → State} (hafter : EndsFree after)
    (h : setstopSteps k after l s = some t) : LatchMove i l s t := by
  cases l <;> cases h
  case stopRead => exact readIntoS_latchMove rfl
  case stopWrite => exact hafter.restore rfl (dlabOf_setStb ..)

theorem setwlenSteps_latchMove {n : BitVec 2} {after : State → State} (hafter : EndsFree after)
    (h : setwlenSteps n after l s = some t) : LatchMove i l s t := by
  cases l <;> cases h
  case wlenRead => exact readIntoS_latchMove rfl
  case wlenWrite => exact hafter.restore rfl (dlabOf_setWls ..)

theorem initSteps_latchMove {h : BitVec 1} {p : BitVec 3} {k : BitVec 1} {n : BitVec 2} {d : Half}
    (ht : initSteps h p k n d l s = some t) : LatchMove i l s t := by
  cases l
  case parRead | parWrite => exact setparSteps_latchMove (p := p) (endsFree_goto (l := .stopRead) rfl) ht
  case stopRead | stopWrite => exact setstopSteps_latchMove (k := k) (endsFree_goto (l := .wlenRead) rfl) ht
  case wlenRead | wlenWrite => exact setwlenSteps_latchMove (n := n) endsFree_retOk ht
  case rawAccess | start | poll | data | spin => cases ht
  all_goals
    simp only [initSteps, Option.ite_none_right_eq_some] at ht
    exact setdivSteps_latchMove (endsFree_goto rfl) ht.2

/-- A read of a register into `t`, up to the end of the step. -/
theorem EndsFree.query {f : State → State} (hf : EndsFree f) (hl : l.inWindow = false) (off : BitVec 3) :
    LatchMove i l s (f (readIntoT off s)) :=
  hf.keep hl (busRead_regs_lcr off s)

theorem getcfgSteps_latchMove (h : getcfgSteps l s = some t) : LatchMove i l s t := by
  cases l
  case lcrSave | latchOpen | divLow | divHigh | lcrRestore =>
    exact getdivSteps_latchMove (endsFree_goto (l := .parRead) rfl) h
  case parRead | stopRead =>
    cases h
    exact .keep nofun (busRead_regs_lcr offLcr s) (savesNothing_of_label rfl rfl)
  case wlenRead =>
    cases h
    exact .keep nofun (busRead_regs_lcr offLcr s) (savesNothing_of_no_label rfl)
  all_goals cases h

/-! ### The polled commands and raw access -/

/-- A poll, and the end that its value chooses. -/
theorem poll_latchMove {f g : State → State} (hf : EndsFree f) (hg : EndsFree g) (hl : l.inWindow = false)
    (seen : Byte → Bool) : LatchMove i l s (if seen (poll s).seq.t then f (poll s) else g (poll s)) :=
  (hf.ite hg fun u => seen u.seq.t).query hl offLsr

theorem readSteps_latchMove {len : Half} (h : readSteps len l s = some t) : LatchMove i l s t := by
  cases l <;> cases h
  case start => exact (endsFree_readLoop len).keep rfl rfl
  case poll => exact poll_latchMove (endsFree_goto rfl) endsFree_readReturn rfl polledDr
  case data => exact (endsFree_readLoop len).keep rfl (busRead_regs_lcr offA s)

theorem writeSteps_latchMove {len : Half} (h : writeSteps len l s = some t) : LatchMove i l s t := by
  cases l
  case start =>
    cases h
    exact (endsFree_writeLoop len).keep rfl rfl
  case poll =>
    cases h
    exact poll_latchMove (endsFree_goto rfl) endsFree_writeReturn rfl polledThre
  case data =>
    cases hb : s.seq.payload[s.seq.i.toNat]? <;> simp only [writeSteps, hb] at h <;> cases h
    exact (endsFree_writeLoop len).keep rfl (busWrite_offA_lcr _ s)
  all_goals cases h

theorem flushSteps_latchMove (h : flushSteps l s = some t) : LatchMove i l s t := by
  cases l <;> cases h
  case poll => exact poll_latchMove endsFree_retOk (endsFree_goto rfl) rfl polledTemt
  case spin => exact (endsFree_goto rfl).keep rfl rfl

theorem rdnbSteps_latchMove (h : rdnbSteps l s = some t) : LatchMove i l s t := by
  cases l <;> cases h
  case poll => exact poll_latchMove (endsFree_goto rfl) endsFree_retWouldBlock rfl polledDr
  case data => exact .keep nofun (busRead_regs_lcr offA s) (savesNothing_of_no_label rfl)

theorem wrnbSteps_latchMove {v : Byte} (h : wrnbSteps v l s = some t) : LatchMove i l s t := by
  cases l <;> cases h
  case poll => exact poll_latchMove (endsFree_goto rfl) endsFree_retWouldBlock rfl polledThre
  case data => exact .keep nofun (busWrite_offA_lcr v s) (savesNothing_of_no_label rfl)

theorem flnbStep_latchMove (h : flnbStep l s = some t) : LatchMove i l s t := by
  cases l <;> cases h
  exact poll_latchMove endsFree_retOk endsFree_retWouldBlock rfl polledTemt

theorem regwrStep_latchMove {off : BitVec 3} {v : Byte} (hlegal : regwrOffsetLegal off = true)
    (h : regwrStep off v l s = some t) : LatchMove (.regwr off v) l s t := by
  have hoff : off = offA ∨ off = offB ∨ off = offLcr := by
    clear h
    revert off
    decide
  cases l <;> cases h
  rcases hoff with rfl | rfl | rfl
  · exact endsFree_retOk.keep rfl (busWrite_offA_lcr v s)
  · exact endsFree_retOk.keep rfl (busWrite_offB_lcr v s)
  · exact .raw rfl (by simp [State.dlab, endsFree_retOk.lcr]) (endsFree_retOk.free _)

/-! ### Every command -/

theorem microSteps_latchMove (hlegal : i.wellFormed = true) (h : microSteps i l s = some t) : LatchMove i l s t := by
  cases i
  case getdiv =>
    exact getdivSteps_latchMove (endsFree_ret .ok (fun u => (divOf u.seq.hi u.seq.lo).setWidth 32) fun _ => []) h
  case setdiv => exact setdivSteps_latchMove endsFree_retOk h
  case setpar => exact setparSteps_latchMove endsFree_retOk h
  case setstop => exact setstopSteps_latchMove endsFree_retOk h
  case setwlen => exact setwlenSteps_latchMove endsFree_retOk h
  case init => exact initSteps_latchMove h
  case getcfg => exact getcfgSteps_latchMove h
  case read => exact readSteps_latchMove h
  case write => exact writeSteps_latchMove h
  case flush => exact flushSteps_latchMove h
  case rdnb => exact rdnbSteps_latchMove h
  case wrnb => exact wrnbSteps_latchMove h
  case flnb => exact flnbStep_latchMove h
  case regwr => exact regwrStep_latchMove hlegal h
  case getpar | getstop | getwlen | rdrdy | wrrdy | regrd =>
    cases l <;> cases h
    exact .keep nofun (busRead_regs_lcr _ s) (savesNothing_of_no_label rfl)
  all_goals cases h

end Sys2Proof.Machine
end

section
/-! The latch discipline (R117 to R119): DLAB shut, or stuck open, at every command boundary, kept by every step but a
REGWR to LCR. -/

namespace Sys2Proof.Machine

variable {i : Instr} {l : Label} {s t : State} {b : Bool}

/-! ### The latch discipline -/

/-- DLAB is `b`, and so is bit 7 of a value that a running command will write back; when `b` is 0 a window that the
command itself will shut is excepted (R117, R118). -/
structure LatchDiscipline (b : Bool) (s : State) : Prop where
  saved : ∀ l, s.seq.pc = some l → l.holdsSaved = true → dlabOf s.seq.s = b
  dlab : s.dlab = b ∨ b = false ∧ ∃ l, s.seq.pc = some l ∧ l.inWindow = true

/-- What the discipline asks at a label, and at none. -/
theorem latchDiscipline_of_label (hpc : s.seq.pc = some l) :
    LatchDiscipline b s ↔
      (l.holdsSaved = true → dlabOf s.seq.s = b) ∧ (s.dlab = b ∨ b = false ∧ l.inWindow = true) := by
  refine ⟨fun h => ⟨h.saved l hpc, ?_⟩, fun ⟨hsaved, hdlab⟩ => ⟨fun l' hl' => ?_, ?_⟩⟩
  · simpa [hpc] using h.dlab
  · cases hpc.symm.trans hl'
    exact hsaved
  · simpa [hpc] using hdlab

theorem latchDiscipline_of_no_label (hpc : s.seq.pc = none) : LatchDiscipline b s ↔ s.dlab = b := by
  refine ⟨fun h => by simpa [hpc] using h.dlab, fun h => ⟨fun l hl => ?_, .inl h⟩⟩
  cases hpc.symm.trans hl

theorem State.latchClosed_iff (hwf : s.wf = true) : s.latchClosed = true ↔ LatchDiscipline false s := by
  obtain ⟨-, -, hseq, -⟩ := State.wf_iff.mp hwf
  rcases State.seqWf_iff.mp hseq with ⟨hphase, hpc⟩ | ⟨l, hphase, hpc, -⟩
  · simp [latchDiscipline_of_no_label hpc, State.latchClosed, hphase]
  · rw [latchDiscipline_of_label hpc]
    simp [State.latchClosed, hphase, hpc, imp_iff_not_or, or_comm]

theorem State.latchStuck_iff (hwf : s.wf = true) : s.latchStuck = true ↔ LatchDiscipline true s := by
  obtain ⟨-, -, hseq, -⟩ := State.wf_iff.mp hwf
  rcases State.seqWf_iff.mp hseq with ⟨hphase, hpc⟩ | ⟨l, hphase, hpc, -⟩
  · simp [latchDiscipline_of_no_label hpc, State.latchStuck, hphase]
  · rw [latchDiscipline_of_label hpc]
    simp [State.latchStuck, hphase, hpc, imp_iff_not_or]

/-- Without a saved value only DLAB itself is asked for. -/
theorem State.savesNothing.discipline (hfree : s.savesNothing) (hdlab : s.dlab = b) : LatchDiscipline b s where
  saved l hpc hl := by rw [hfree l hpc] at hl; cases hl
  dlab := .inl hdlab

/-- A move that leaves SEQ and LCR keeps the discipline. -/
theorem LatchDiscipline.of_seq_eq (h : LatchDiscipline b s) (hseq : t.seq = s.seq) (hlcr : t.regs.lcr = s.regs.lcr) :
    LatchDiscipline b t where
  saved := hseq ▸ h.saved
  dlab := by
    rw [State.dlab, hlcr, hseq]
    exact h.dlab

/-! ### Every step keeps it -/

/-- No step of a micro-program breaks the discipline, but GETDIV's when it does not restore, and REGWR's to LCR. -/
theorem LatchMove.discipline (h : LatchMove i l s t) (hpc : s.seq.pc = some l) (hs : LatchDiscipline b s)
    (hrestore : b = false → s.params.getdivRestore = true) (hraw : ∀ v, i = .regwr offLcr v → dlabOf v = b) :
    LatchDiscipline b t := by
  obtain ⟨hsaved, hdlab⟩ := (latchDiscipline_of_label hpc).mp hs
  cases h with
  | keep hl hlcr hfree =>
    refine hfree.discipline ((congrArg dlabOf hlcr).trans (hdlab.resolve_right fun ⟨hb, hopen⟩ => ?_))
    cases (hl hopen).symm.trans (hrestore hb)
  | save hl hlcr hs hpc' =>
    have hshut : dlabOf s.regs.lcr = b := hdlab.resolve_right fun ⟨_, hopen⟩ => by rw [hl] at hopen; cases hopen
    exact (latchDiscipline_of_label hpc').mpr
      ⟨fun _ => (congrArg dlabOf hs).trans hshut, .inl ((congrArg dlabOf hlcr).trans hshut)⟩
  | window hl hopen hs hpc' hl' =>
    refine (latchDiscipline_of_label hpc').mpr ⟨fun _ => (congrArg dlabOf hs).trans (hsaved hl), ?_⟩
    cases b with
    | false => exact .inr ⟨rfl, hl'⟩
    | true => exact .inl (hopen (hdlab.resolve_right nofun))
  | restore hl hback hfree => exact hfree.discipline (hback.trans (hsaved hl))
  | raw hi hv hfree => exact hfree.discipline (hv.trans (hraw _ hi))

/-- No command starts at a label that holds a saved value. -/
theorem firstLabel_holdsSaved (i : Instr) : (firstLabel i).holdsSaved = false := by
  cases i
  case init h p k n d => by_cases hdiv : h = 1#1 <;> simp only [firstLabel, hdiv] <;> rfl
  all_goals rfl

/-- The REGWR that `pokesDlab` rules out is the one that writes the other value of bit 7. -/
theorem State.dlabOf_of_regwr {v : Byte} (hpoke : s.pokesDlab (!b) = false) (hbusy : s.seq.phase = .busy)
    (hword : decodeCommand s.seq.cmd = .ok (.regwr offLcr v)) : dlabOf v = b := by
  simpa [State.pokesDlab, hbusy, hword] using hpoke

theorem seqStep_latchDiscipline (hwf : s.wf = true) (hext : s.ext = none) (hs : LatchDiscipline b s)
    (hrestore : b = false → s.params.getdivRestore = true) (hpoke : s.pokesDlab (!b) = false)
    (h : seqStep s = .next t) : LatchDiscipline b t := by
  obtain ⟨-, -, hseq, -⟩ := State.wf_iff.mp hwf
  rcases State.seqWf_iff.mp hseq with ⟨hidle, hpc⟩ | ⟨-, hbusy, -⟩
  · have hdlab := (latchDiscipline_of_no_label hpc).mp hs
    rcases seqStep_next h with rfl | rfl | ⟨c, i, -, rfl⟩ | ⟨i, l, hbusy, -⟩
    · exact hs
    · exact hs.of_seq_eq rfl rfl
    · exact (savesNothing_of_label rfl (firstLabel_holdsSaved i)).discipline hdlab
    · cases hidle.symm.trans hbusy
  · obtain ⟨i, l, hin, hpc, -⟩ := State.inCommand_of_wf_busy hwf hbusy
    have hat : AtStep i l s := ⟨hext, hbusy, hpc, hin.word⟩
    refine (microSteps_latchMove (decodeCommand_ok hin.word).2 (hat.microSteps_of_next h)).discipline hpc hs hrestore ?_
    rintro v rfl
    exact State.dlabOf_of_regwr hpoke hbusy hin.word

/-- Reset, which clears LCR, leads to the discipline with DLAB = 0 only. -/
theorem takeMove_latchDiscipline {m : Move} (hwf : s.wf = true) (hext : s.ext = none) (hs : LatchDiscipline b s)
    (hrestore : b = false → s.params.getdivRestore = true) (hpoke : s.pokesDlab (!b) = false)
    (hreset : m = .reset → b = false) (h : takeMove m s = .next t) : LatchDiscipline b t := by
  cases m with
  | seq => exact seqStep_latchDiscipline hwf hext hs hrestore hpoke h
  | line m =>
    cases h
    exact hs.of_seq_eq (lineStep_sameOutsideLine m s).seq (lineStep_lcr m s)
  | host c =>
    cases h
    rcases hostPresent_cases c s with ⟨-, -, he⟩ | ⟨-, he⟩ <;> rw [he]
    · exact hs.of_seq_eq rfl rfl
    · exact hs
  | reset =>
    cases h
    have hshut : dlabOf 0x00#8 = false := by decide
    exact (savesNothing_of_no_label rfl).discipline (hshut.trans (hreset rfl).symm)

theorem step_latchDiscipline (hwf : s.wf = true) (hext : s.ext = none) (hs : LatchDiscipline b s)
    (hrestore : b = false → s.params.getdivRestore = true) (hpoke : s.pokesDlab (!b) = false)
    (hreset : s.nextMove = .reset → b = false) (h : step s = .next t) : t.wf = true ∧ LatchDiscipline b t := by
  obtain ⟨u, hu, hwfu⟩ := stepFromWellFormedAnswersWellFormed s hwf
  cases hu.symm.trans h
  rw [step_of_ext_none hext] at h
  exact ⟨hwfu, takeMove_latchDiscipline (s := s.advance) hwf hext (hs.of_seq_eq rfl rfl) hrestore hpoke hreset h⟩

/-! ### The obligations -/

/-- Settles O59: the values saved outside a window, like LCR there, have bit 7 clear, so every write back shuts the
window again, and with `GETDIV_RESTORE` every window has one. -/
theorem latchStaysClosed : Obligations.LatchStaysClosed := by
  intro s t hwf hext hrestore hclosed hpoke hstep
  obtain ⟨hwft, ht⟩ := step_latchDiscipline hwf hext ((State.latchClosed_iff hwf).mp hclosed) (fun _ => hrestore)
    hpoke (fun _ => rfl) hstep
  exact (State.latchClosed_iff hwft).mpr ht

/-- Settles O60: what a command saves has bit 7 set, so what it writes back has too. -/
theorem latchStaysOpenUntilRawWrite : Obligations.LatchStaysOpenUntilRawWrite := by
  intro s t hwf hext hstuck hpoke hreset hstep
  obtain ⟨hwft, ht⟩ := step_latchDiscipline hwf hext ((State.latchStuck_iff hwf).mp hstuck) nofun hpoke
    (fun h => absurd h hreset) hstep
  exact (State.latchStuck_iff hwft).mpr ht

end Sys2Proof.Machine
end

section
/-! FLUSH against a LINE that moves no transmit byte (R120): it polls for as long as the run goes. -/

namespace Sys2Proof.Machine

variable {s : State} {ms : List Move}

/-- The move is SEQ's, or one of LINE's that leaves the transmitter alone. -/
def StallsTransmit (mv : Move) : Prop :=
  mv = .seq ∨ ∃ m, mv = .line m ∧ m ≠ .txLoad ∧ m ≠ .txDone

/-- A FLUSH that is still polling, with the transmitter busy and no result. -/
structure FlushStalled (s : State) : Prop where
  flushing : Flushing s
  result : s.result = none
  busy : s.regs.txBusy = true

theorem stallsTransmit_of_seqAndLine (hms : seqAndLine ms = true) (hload : Move.line .txLoad ∉ ms)
    (hdone : Move.line .txDone ∉ ms) : ∀ mv ∈ ms, StallsTransmit mv := by
  intro mv hmem
  have hmv : isSeqOrLine mv = true := List.all_eq_true.mp hms mv hmem
  cases mv with
  | seq => exact .inl rfl
  | line m => exact .inr ⟨m, rfl, fun h => hload (h ▸ hmem), fun h => hdone (h ▸ hmem)⟩
  | host c => cases hmv
  | reset => cases hmv

/-- A delivery and an error leave TXQ and the shift register (R93, R96). -/
theorem lineStep_txBusy {m : LineStep} (hload : m ≠ .txLoad) (hdone : m ≠ .txDone) (s : State) :
    (lineStep m s).regs.txBusy = s.regs.txBusy := by
  cases m with
  | rxDeliver b =>
    show (rxDeliver b s).regs.txBusy = s.regs.txBusy
    rcases rxDeliver_cases b s with ⟨-, he⟩ | ⟨-, q, -, he⟩ <;> rw [he] <;> rfl
  | txLoad => exact absurd rfl hload
  | txDone => exact absurd rfl hdone
  | lineError => rfl

theorem FlushStalled.line {m : LineStep} (h : FlushStalled s) (hload : m ≠ .txLoad) (hdone : m ≠ .txDone) :
    FlushStalled (lineStep m { s with ticks := s.ticks + 1 }) :=
  have hline := undisturbed_move m s
  ⟨hline.flushing h.flushing, hline.result.trans h.result, (lineStep_txBusy hload hdone _).trans h.busy⟩

/-- SEQ's step goes from the poll to the spin hint, or back (R84). -/
theorem FlushStalled.seq (h : FlushStalled s) :
    ∃ t, seqStep { s with ticks := s.ticks + 1 } = .next t ∧ FlushStalled t := by
  obtain ⟨hflush | hflush, hresult, hbusy⟩ := h
  · have hheld : s.regs.txq ≠ [] ∨ s.regs.tsr ≠ none := by
      rwa [Regs.txBusy_eq_not_temt, Regs.temt_eq_decide, Bool.not_eq_true', decide_eq_false_iff_not,
        not_and_or] at hbusy
    refine ⟨_, hflush.counted.next (flushSteps_poll_busy hheld), .inr { hflush with pc := rfl }, hresult, ?_⟩
    exact (congrArg Regs.txBusy (lsrRead_clearErrors s) :).trans hbusy
  · exact ⟨_, hflush.counted.next flushSteps_spin, .inl { hflush with pc := rfl }, hresult, hbusy⟩

theorem FlushStalled.run (h : FlushStalled s) (hms : ∀ mv ∈ ms, StallsTransmit mv) :
    ∃ t, runMoves ms s = some t ∧ FlushStalled t := by
  induction ms generalizing s with
  | nil => exact ⟨s, rfl, h⟩
  | cons mv ms ih =>
    obtain ⟨hmv, hrest⟩ := List.forall_mem_cons.mp hms
    rcases hmv with rfl | ⟨m, rfl, hload, hdone⟩
    · obtain ⟨u, hu, hstalled⟩ := h.seq
      rw [runMoves_cons (mv := .seq) h.flushing.ext hu]
      exact ih hstalled hrest
    · rw [runMoves_cons (mv := .line m) h.flushing.ext rfl]
      exact ih (h.line hload hdone) hrest

/-- SEQ's first move accepts the command; from there on it stalls. -/
theorem State.presents.flush_stalls (hp : s.presents .flush []) (hbusy : s.regs.txBusy = true)
    (hms : ∀ mv ∈ ms, StallsTransmit mv) (hseq : .seq ∈ ms) :
    ∃ t, runMoves ms s = some t ∧ FlushStalled t := by
  induction ms generalizing s with
  | nil => cases hseq
  | cons mv ms ih =>
    obtain ⟨hmv, hrest⟩ := List.forall_mem_cons.mp hms
    rcases hmv with rfl | ⟨m, rfl, hload, hdone⟩
    · obtain ⟨c, -, hbegin, hat⟩ := ((undisturbed_ticks s (s.ticks + 1)).presents hp).next
      rw [runMoves_cons (mv := .seq) hp.1 hbegin]
      exact FlushStalled.run ⟨.inl hat, rfl, hbusy⟩ hrest
    · rw [runMoves_cons (mv := .line m) hp.1 rfl]
      exact ih ((undisturbed_move m s).presents hp) ((lineStep_txBusy hload hdone _).trans hbusy) hrest
        ((List.mem_cons.mp hseq).resolve_left nofun)

/-- Settles O47: neither a poll, which never sees TEMT, nor LINE's other steps free the transmitter. -/
theorem flushHangsWhileLineStalls : Obligations.FlushHangsWhileLineStalls := by
  intro s ms hp hbusy hms hseq hload hdone
  obtain ⟨t, hrun, hflush, hresult, htbusy⟩ :=
    hp.flush_stalls hbusy (stallsTransmit_of_seqAndLine hms hload hdone) hseq
  exact ⟨t, hrun, hflush.elim AtStep.busy AtStep.busy, hresult, htbusy⟩

end Sys2Proof.Machine
end

section
/-! The latch-window hazard (R116): READ and WRITE at DLAB = 1, with LINE quiet, run through all their slots against
DLL. -/

namespace Sys2Proof.Machine

variable {s₀ u v : State} {len : Half} {i : Instr} {n : Nat} {payload : List Byte}

/-! ### The loop both share -/

/-- READ or WRITE, in the block's own system, has done `n` slots; where in the next one it stands is left open. -/
structure SlotsDone (i : Instr) (n : Nat) (u : State) : Prop where
  ext : u.ext = none
  busy : u.seq.phase = .busy
  word : decodeCommand u.seq.cmd = .ok i
  index : u.seq.i.toNat = n
  count : u.seq.cnt = u.seq.i

theorem SlotsDone.lt_iff (h : SlotsDone i n u) : u.seq.i < len ↔ n < len.toNat := by rw [BitVec.lt_def, h.index]

/-- After the last slot the count is `LEN`. -/
theorem SlotsDone.count_eq (h : SlotsDone i n u) (hn : n = len.toNat) : u.seq.cnt = len :=
  h.count.trans (BitVec.eq_of_toNat_eq (h.index.trans hn))

/-- A slot counts on the index and the count. -/
theorem SlotsDone.succ (h : SlotsDone i n u) (hn : n < len.toNat) (hext : v.ext = u.ext)
    (hphase : v.seq.phase = u.seq.phase) (hcmd : v.seq.cmd = u.seq.cmd) (hindex : v.seq.i = u.seq.i + 1#16)
    (hcount : v.seq.cnt = u.seq.cnt + 1#16) : SlotsDone i (n + 1) v where
  ext := hext.trans h.ext
  busy := hphase.trans h.busy
  word := hcmd ▸ h.word
  index := by rw [hindex, toNat_slot_succ (h.lt_iff.mpr hn), h.index]
  count := by rw [hcount, hindex, h.count]

/-- A poll that passes, as one move of SEQ: it leads to the data access and changes the error flags only. -/
theorem SlotsDone.run_poll (h : SlotsDone i n u)
    (hpass : ∀ w : State, w.regs = u.regs → microSteps i .poll w = some
      { lsrRead w with seq := { w.seq with t := w.regs.lsr, pc := some .data } }) (ms : List Move) :
    ∃ w, runMoves (.seq :: ms) (u.goto .poll) = runMoves ms w ∧ AtStep i .data w ∧ SlotsDone i n w ∧
      w.seq.out = u.seq.out ∧ w.seq.payload = u.seq.payload ∧ w.regs.clearErrors = u.regs.clearErrors := by
  have hat : AtStep i .poll (u.goto .poll) := ⟨h.ext, h.busy, rfl, h.word⟩
  have hpoll := hat.counted.next (hpass { u.goto .poll with ticks := u.ticks + 1 } rfl)
  exact ⟨_, runMoves_cons (mv := .seq) hat.ext hpoll, { hat with pc := rfl },
    ⟨h.ext, h.busy, h.word, h.index, h.count⟩, rfl, rfl, lsrRead_clearErrors _⟩

/-- The acceptance, as one move of SEQ (R99). -/
theorem State.presents.run_accept (hp : s₀.presents i payload) (ms : List Move) :
    ∃ u, runMoves (.seq :: ms) s₀ = runMoves ms u ∧ AtStep i (firstLabel i) u ∧ u.seq.payload = payload ∧
      u.regs = s₀.regs := by
  obtain ⟨c, hpayload, hbegin, hat⟩ := ((undisturbed_ticks s₀ (s₀.ticks + 1)).presents hp).next
  exact ⟨_, runMoves_cons (mv := .seq) hp.1 hbegin, hat, hpayload, rfl⟩

/-- The two moves before the slots, and two for each slot. -/
theorem replicate_slot_moves (n : Nat) :
    List.replicate (2 + 2 * n) Move.seq = .seq :: .seq :: List.replicate (2 * n) .seq := by
  rw [Nat.add_comm, List.replicate_succ, List.replicate_succ]

/-! ### READ -/

/-- READ has taken `n` copies of DLL, and left all of REGS but the error flags. -/
structure ReadsDll (s₀ : State) (len : Half) (n : Nat) (u : State) : Prop where
  slots : SlotsDone (.read len) n u
  out : u.seq.out = List.replicate n s₀.regs.dll
  regs : u.regs.clearErrors = s₀.regs.clearErrors

/-- The latch window turns the data access to DLL. -/
theorem ReadsDll.run_data (h : ReadsDll s₀ len n u) (hat : AtStep (.read len) .data u) (hdlab : s₀.dlab = true)
    (hn : n < len.toNat) (ms : List Move) :
    ∃ v, runMoves (.seq :: ms) u = runMoves ms (readLoop len v) ∧ ReadsDll s₀ len (n + 1) v := by
  have hudlab : State.dlab { u with ticks := u.ticks + 1 } = true :=
    (congrArg (fun r : Regs => dlabOf r.lcr) h.regs :).trans hdlab
  have hdata := hat.counted.next readSteps_data
  rw [busRead_offA_latched hudlab] at hdata
  refine ⟨_, runMoves_cons (mv := .seq) hat.ext hdata, h.slots.succ hn rfl rfl rfl rfl rfl, ?_, h.regs⟩
  rw [List.replicate_succ']
  exact congrArg₂ (fun out b => out ++ [b]) h.out (congrArg Regs.dll h.regs :)

/-- The slots that are left, and the return. -/
theorem ReadsDll.run {k : Nat} (h : ReadsDll s₀ len n u) (hdlab : s₀.dlab = true) (hq : s₀.regs.rxq ≠ [])
    (hk : n + k = len.toNat) :
    ∃ t, runMoves (List.replicate (2 * k) .seq) (readLoop len u) = some t ∧ t.seq.phase = .idle ∧
      t.result = some
        { status := 0#2, value := len.setWidth 32, data := List.replicate len.toNat s₀.regs.dll } ∧
      t.regs.rxq = s₀.regs.rxq := by
  induction k generalizing n u with
  | zero =>
    rw [readLoop_of_not_lt (by rw [h.slots.lt_iff]; exact hk.not_lt)]
    refine ⟨_, rfl, rfl, ?_, (congrArg Regs.rxq h.regs :)⟩
    simp only [readReturn, State.ret_result, Status.code_ok, h.slots.count_eq hk, h.out, ← hk, Nat.add_zero]
  | succ k ih =>
    have hn : n < len.toNat := by omega
    have huq : u.regs.rxq ≠ [] := (congrArg Regs.rxq h.regs).trans_ne hq
    obtain ⟨w, hw, hat, hslots, hout, -, hregs⟩ := h.slots.run_poll
      (fun w hw => readSteps_poll_received len (hw ▸ huq)) (.seq :: List.replicate (2 * k) .seq)
    have hpolled : ReadsDll s₀ len n w := ⟨hslots, hout.trans h.out, hregs.trans h.regs⟩
    obtain ⟨v, hv, hreads⟩ := hpolled.run_data hat hdlab hn (List.replicate (2 * k) .seq)
    rw [readLoop_of_lt (h.slots.lt_iff.mpr hn), Nat.mul_succ, List.replicate_succ, List.replicate_succ, hw, hv]
    exact ih hreads (by omega)

/-! ### WRITE -/

/-- WRITE has put `n` payload bytes into DLL, one over the other, and none into TXQ. -/
structure WritesDll (s₀ : State) (len : Half) (payload : List Byte) (n : Nat) (u : State) : Prop where
  slots : SlotsDone (.write len) n u
  carries : u.seq.payload = payload
  dlab : u.dlab = true
  txq : u.regs.txq = []
  dll : u.regs.dll = (payload.take n).getLastD s₀.regs.dll

/-- The latch window turns the data access to DLL. -/
theorem WritesDll.run_data (h : WritesDll s₀ len payload n u) (hat : AtStep (.write len) .data u)
    (hfits : payload.length = len.toNat) (hn : n < len.toNat) (ms : List Move) :
    ∃ v, runMoves (.seq :: ms) u = runMoves ms (writeLoop len v) ∧ WritesDll s₀ len payload (n + 1) v := by
  obtain ⟨b, hb⟩ : ∃ b, payload[n]? = some b := ⟨_, List.getElem?_eq_getElem (hfits ▸ hn)⟩
  have hslot : u.seq.payload[u.seq.i.toNat]? = some b := by rw [h.carries, h.slots.index, hb]
  have hudlab : State.dlab { u with ticks := u.ticks + 1 } = true := h.dlab
  have hdata := hat.counted.next (writeSteps_data hslot)
  rw [busWrite_offA_latched hudlab] at hdata
  refine ⟨_, runMoves_cons (mv := .seq) hat.ext hdata, h.slots.succ hn rfl rfl rfl rfl rfl, h.carries, h.dlab,
    h.txq, ?_⟩
  simp [List.take_add_one, hb]

/-- The slots that are left, and the return. -/
theorem WritesDll.run {k : Nat} (h : WritesDll s₀ len payload n u) (hfits : payload.length = len.toNat)
    (hk : n + k = len.toNat) :
    ∃ t, runMoves (List.replicate (2 * k) .seq) (writeLoop len u) = some t ∧ t.seq.phase = .idle ∧
      t.result = some { status := 0#2, value := len.setWidth 32, data := [] } ∧
      t.regs.txq = [] ∧ t.regs.dll = payload.getLastD s₀.regs.dll := by
  induction k generalizing n u with
  | zero =>
    rw [writeLoop_of_not_lt (by rw [h.slots.lt_iff]; exact hk.not_lt)]
    refine ⟨_, rfl, rfl, ?_, h.txq, ?_⟩
    · simp only [writeReturn, State.ret_result, Status.code_ok, h.slots.count_eq hk]
    · rw [← List.take_of_length_le (hfits.trans hk.symm).le]
      exact h.dll
  | succ k ih =>
    have hn : n < len.toNat := by omega
    obtain ⟨w, hw, hat, hslots, -, hpayload, hregs⟩ := h.slots.run_poll
      (fun w hw => writeSteps_poll_empty len ((congrArg Regs.txq hw).trans h.txq)) (.seq :: List.replicate (2 * k) .seq)
    have hpolled : WritesDll s₀ len payload n w :=
      { slots := hslots
        carries := hpayload.trans h.carries
        dlab := (congrArg (fun r : Regs => dlabOf r.lcr) hregs :).trans h.dlab
        txq := (congrArg Regs.txq hregs :).trans h.txq
        dll := (congrArg Regs.dll hregs :).trans h.dll }
    obtain ⟨v, hv, hwrites⟩ := hpolled.run_data hat hfits hn (List.replicate (2 * k) .seq)
    rw [writeLoop_of_lt (h.slots.lt_iff.mpr hn), Nat.mul_succ, List.replicate_succ, List.replicate_succ, hw, hv]
    exact ih hwrites (by omega)

/-! ### The obligation -/

/-- Settles O49: nothing that READ or WRITE does in the latch window clears the flag that its polls see, so every slot is
filled, from DLL or into it. -/
theorem transfersInLatchWindowReachDll : Obligations.TransfersInLatchWindowReachDll := by
  intro s len hdlab
  rw [replicate_slot_moves]
  constructor
  · intro hp hq
    obtain ⟨u, hu, hat, -, huregs⟩ := hp.run_accept (.seq :: List.replicate (2 * len.toNat) .seq)
    have hstart := hat.counted.next (t := _) rfl
    rw [hu, runMoves_cons (mv := .seq) hat.ext hstart]
    exact ReadsDll.run ⟨⟨hat.ext, hat.busy, hat.word, rfl, rfl⟩, rfl, congrArg Regs.clearErrors huregs⟩ hdlab hq
      (Nat.zero_add _)
  · intro payload hp hq
    obtain ⟨u, hu, hat, hpayload, huregs⟩ := hp.run_accept (.seq :: List.replicate (2 * len.toNat) .seq)
    have hstart := hat.counted.next (t := _) rfl
    rw [hu, runMoves_cons (mv := .seq) hat.ext hstart]
    exact WritesDll.run (n := 0)
      { slots := ⟨hat.ext, hat.busy, hat.word, rfl, rfl⟩
        carries := hpayload
        dlab := (congrArg (fun r : Regs => dlabOf r.lcr) huregs :).trans hdlab
        txq := (congrArg Regs.txq huregs).trans hq
        dll := congrArg Regs.dll huregs } hp.length_payload (Nat.zero_add _)

end Sys2Proof.Machine
end

section
/-! What reset leaves (R113, R114), at the machine's start and at every reset move. -/

namespace Sys2Proof.Machine

variable {s t : State}

/-- A reset left `t`, with whatever is not the block's. -/
def IsAfterReset (t : State) : Prop :=
  ∃ params n ext agenda ticks, t = State.afterReset params n ext agenda ticks

theorem step_of_reset (hext : s.ext = none) (hmove : s.nextMove = .reset) :
    step s = .next (platformReset s.advance) := by
  rw [step_of_ext_none hext, hmove]
  rfl

theorem isAfterReset_reset : IsAfterReset State.reset := ⟨_, _, _, _, _, rfl⟩

theorem isAfterReset_of_step (hext : s.ext = none) (hmove : s.nextMove = .reset) (h : step s = .next t) :
    IsAfterReset t := by
  rw [step_of_reset hext hmove] at h
  cases h
  exact ⟨_, _, _, _, _, rfl⟩

/-- With empty queues and an idle shift register the transmit flags are all that LSR shows (R14). -/
theorem IsAfterReset.lsr (h : IsAfterReset t) : t.regs.lsr = 0x60#8 := by
  obtain ⟨params, n, ext, agenda, ticks, rfl⟩ := h
  simp [State.afterReset, Regs.lsr, Regs.dr, Regs.thre, Regs.temt]

/-- Settles O54: the start and a reset move both leave `State.afterReset`, whose fields are R113's. -/
theorem resetLeavesIdleEmptyBlock : Obligations.ResetLeavesIdleEmptyBlock := by
  have hwf : State.reset.wf = true := State.afterReset_wf (by decide) 0 none [] 0
  have hs : OwnFacts State.reset := .of_idle rfl rfl
  refine ⟨⟨hwf, ?_, hs.poll, hs.window, ?_, rfl⟩, fun t ht => ?_, fun s hext hmove => ?_⟩
  · simp only [State.launch, hwf, Bool.true_and]
    decide
  · decide
  · have hreset : IsAfterReset t := by
      rcases ht with rfl | ⟨s, hext, hmove, hstep⟩
      · exact isAfterReset_reset
      · exact isAfterReset_of_step hext hmove hstep
    have hlsr := hreset.lsr
    obtain ⟨params, n, ext, agenda, ticks, rfl⟩ := hreset
    exact ⟨rfl, rfl, rfl, rfl, rfl, rfl, rfl, rfl, rfl, rfl, hlsr, rfl, rfl, rfl, rfl, rfl, rfl, rfl, rfl⟩
  · exact ⟨_, step_of_reset hext hmove, rfl⟩

end Sys2Proof.Machine
end
